-- ==== Sys2Proof/Word.lean ====
section
/-! DEFINITION. The word types of BSPF: the byte, the 32-bit register word and the 16-byte buffer (00_scope.md R9,
R10; 10_state.md R25, R26). -/

namespace Sys2Proof

/-- An element of SB, OB or HS: bits [7:0] (00_scope.md R10, R12). -/
abbrev Byte := BitVec 8

/-- A register word: bits [31:0] (00_scope.md R9 BUS_W, R10). -/
abbrev Word := BitVec 32

/-- SB and OB: SB_BYTES = OB_BYTES = 16 bytes, byte 0 first (00_scope.md R9; 10_state.md R25, R26). -/
abbrev Buffer := Vector Byte 16

end Sys2Proof
end

