-- ==== Sys2Proof/Syntax.lean ====
section
/-! DEFINITION. The commands of BSPF (30_encoding.md R80 to R84), one constructor per row of spec/opcode_table.json.
Operands are the natural numbers their fields hold (30_encoding.md R82: unsigned, taken as they stand); the range of
each field is in WellFormed.lean. Operand order is the assembler's (30_encoding.md R90). -/

namespace Sys2Proof

/-- One command. -/
inductive Instr where
  /-- KRESET, format Z (R100). -/
  | kreset
  /-- HSIZE, format Z (R112). -/
  | hsize
  /-- PSIZE, format Z (R113). -/
  | psize
  /-- CSIZE d, format D (R114). -/
  | csize (d : Bool)
  /-- ALIGN0 size, shift, format S (R120). -/
  | align0 (size shift : Nat)
  /-- POSOFF size, shift, format S (R123). -/
  | posoff (size shift : Nat)
  /-- MERGE outoff, srcoff, n, format M (R128). -/
  | merge (outoff srcoff n : Nat)
  /-- SPAN len, off, format N (R134). -/
  | span (len off : Nat)
  /-- SBCLR, format Z (R137). -/
  | sbclr
  /-- OBCLR, format Z (R138). -/
  | obclr
  /-- COPY, format Z (R150). -/
  | copy
  deriving DecidableEq, Repr

/-- Why a word is no command (30_encoding.md R87, R88). Both raise ILLCMD. -/
inductive Illegal where
  /-- The opcode is none of the eleven (R87). -/
  | reservedOpcode (op : Nat)
  /-- The opcode is defined and a bit its format marks 0 is 1 (R88). -/
  | reservedBit (op : Nat)
  deriving DecidableEq, Repr

end Sys2Proof
end

