-- ==== Sys2Proof/WellFormed.lean ====
section
/-! DEFINITION. When an instruction's operands fit their fields (30_encoding.md R82, column "range"). An operand that
fits its field but lies outside the command's domain (size 17 with shift 3, n = 0, len = 0) IS well formed: the command
runs and raises OPERAND (30_encoding.md R88). -/

namespace Sys2Proof

/-- Every operand fits its field (30_encoding.md R81, R82): size 5 bits, shift 3, n 4, srcoff, outoff and off 7, len 8. -/
def Instr.wellFormed : Instr → Bool
  | .kreset | .hsize | .psize | .csize _ | .sbclr | .obclr | .copy => true
  | .align0 size shift => decide (size < 32) && decide (shift < 8)
  | .posoff size shift => decide (size < 32) && decide (shift < 8)
  | .merge outoff srcoff n => decide (outoff < 128) && decide (srcoff < 128) && decide (n < 16)
  | .span len off => decide (len < 256) && decide (off < 128)

end Sys2Proof
end

