-- ==== Sys2Proof/Decode.lean ====
section
/-! DEFINITION. Decoding a command word, total on all 2^32 words (30_encoding.md R85, R88), and the encoder (R90). -/

namespace Sys2Proof

/-- `w[hi:lo]` as a number (00_scope.md R10). -/
def bitField (w : Word) (hi lo : Nat) : Nat := w.toNat / 2 ^ lo % 2 ^ (hi + 1 - lo)

/-- Format Z (30_encoding.md R81): bits 23:0 are 0. -/
def formatZ (w : Word) (i : Instr) : Except Illegal Instr :=
  if bitField w 23 0 = 0 then .ok i else .error (.reservedBit (bitField w 31 24))

/-- Format D (30_encoding.md R81): bits 23:1 are 0, d = bit 0. -/
def formatD (w : Word) (mk : Bool → Instr) : Except Illegal Instr :=
  if bitField w 23 1 = 0 then .ok (mk (bitField w 0 0 == 1)) else .error (.reservedBit (bitField w 31 24))

/-- Format S (30_encoding.md R81): bits 23:13 and 7:3 are 0, size = 12:8, shift = 2:0. -/
def formatS (w : Word) (mk : Nat → Nat → Instr) : Except Illegal Instr :=
  if bitField w 23 13 = 0 ∧ bitField w 7 3 = 0 then .ok (mk (bitField w 12 8) (bitField w 2 0))
  else .error (.reservedBit (bitField w 31 24))

/-- Format M (30_encoding.md R81): bits 19:15 and 7 are 0, n = 23:20, srcoff = 14:8, outoff = 6:0. -/
def formatM (w : Word) (mk : Nat → Nat → Nat → Instr) : Except Illegal Instr :=
  if bitField w 19 15 = 0 ∧ bitField w 7 7 = 0 then
    .ok (mk (bitField w 6 0) (bitField w 14 8) (bitField w 23 20))
  else .error (.reservedBit (bitField w 31 24))

/-- Format N (30_encoding.md R81): bits 23:16 and 7 are 0, len = 15:8, off = 6:0. -/
def formatN (w : Word) (mk : Nat → Nat → Instr) : Except Illegal Instr :=
  if bitField w 23 16 = 0 ∧ bitField w 7 7 = 0 then .ok (mk (bitField w 15 8) (bitField w 6 0))
  else .error (.reservedBit (bitField w 31 24))

/-- The opcode map (30_encoding.md R84): `OP = w[31:24]`; every other opcode is reserved (R87). -/
def decode (w : Word) : Except Illegal Instr :=
  match bitField w 31 24 with
  | 0x10 => formatZ w .kreset
  | 0x20 => formatZ w .hsize
  | 0x21 => formatZ w .psize
  | 0x22 => formatD w .csize
  | 0x30 => formatS w .align0
  | 0x31 => formatS w .posoff
  | 0x32 => formatM w .merge
  | 0x33 => formatN w .span
  | 0x34 => formatZ w .sbclr
  | 0x35 => formatZ w .obclr
  | 0x40 => formatZ w .copy
  | op => .error (.reservedOpcode op)

/-- The instruction a word is, if it is one. -/
def decodeWord (w : Word) : Option Instr :=
  match decode w with
  | .ok i => some i
  | .error _ => none

/-- The word of a table row of `nbits` bits, bit 0 the least significant, as the 32-bit command word HOST writes: the
bits above `nbits` are 0. A command word is written to CMD whole, so no byte order enters (30_encoding.md R80). -/
def tableWord (nbits w : Nat) : Word := BitVec.ofNat 32 (w % 2 ^ nbits)

/-- What the decoder reads from a table word. -/
def decodeTableWord (nbits w : Nat) : Option Instr := decodeWord (tableWord nbits w)

/-- The word the assembler writes for an instruction (30_encoding.md R90, column "word written"). -/
def encode : Instr → Word
  | .kreset => 0x10000000
  | .hsize => 0x20000000
  | .psize => 0x21000000
  | .csize d => BitVec.ofNat 32 (0x22000000 + d.toNat)
  | .align0 size shift => BitVec.ofNat 32 (0x30000000 + size * 256 + shift)
  | .posoff size shift => BitVec.ofNat 32 (0x31000000 + size * 256 + shift)
  | .merge outoff srcoff n => BitVec.ofNat 32 (0x32000000 + n * 2 ^ 20 + srcoff * 256 + outoff)
  | .span len off => BitVec.ofNat 32 (0x33000000 + len * 256 + off)
  | .sbclr => 0x34000000
  | .obclr => 0x35000000
  | .copy => 0x40000000

end Sys2Proof
end

