-- ==== Sys2Proof/Config.lean ====
section
/-! DEFINITION. What is fixed for one BSPF instance: the constants of 00_scope.md R8 and R9, and the open values, each
an uninterpreted constant with no body (the header codec, the contents of the buffers after a reset event). -/

namespace Sys2Proof.Config

/-- DBS, DecryptedBlockSize (00_scope.md R8). -/
def decryptedBlockSize : Byte := 0x08
/-- EBS, EncryptedBlockSize (00_scope.md R8). -/
def encryptedBlockSize : Byte := 0x0B
/-- LENKEY (00_scope.md R8); readable in CONST, used by no command. -/
def lengthKey : Byte := 0x3D
/-- CHKKEY (00_scope.md R8); readable in CONST, used by no command. -/
def checksumKey : Byte := 0xF8

/-- SB_BYTES and OB_BYTES (00_scope.md R9). -/
def bufferBytes : Nat := 16
/-- WIN_BYTES, the bytes of the register window (00_scope.md R9); BASE is a multiple of it (20_memory.md R61). -/
def windowBytes : Nat := 256

/-- OPEN (41_header.md R111 (b)): the codec's marker, true when the first header byte selects the 3-byte header. Which
bit is the marker, and which of its values means 3, the spec does not say. Log 9. -/
opaque headerIsLong : Byte → Bool

/-- OPEN (41_header.md R111 (a), (c)): the codec's packet size as a function of HS[0], HS[1], HS[2], below 65536
(PSZ_W = 16). Log 9. -/
opaque packetSize : Byte → Byte → Byte → BitVec 16

/-- OPEN (10_state.md R37): the word RB[k] holds after reset event number `draw`. Log 2. -/
opaque resetRing : (draw : Nat) → (k : Nat) → Word
/-- OPEN (10_state.md R37): the byte HS[k] holds after reset event number `draw`. Log 2. -/
opaque resetHeader : (draw : Nat) → (k : Nat) → Byte
/-- OPEN (10_state.md R37): the byte SB[k] holds after reset event number `draw`. Log 2. -/
opaque resetSource : (draw : Nat) → (k : Nat) → Byte
/-- OPEN (10_state.md R37): the byte OB[k] holds after reset event number `draw`. Log 2. -/
opaque resetOutput : (draw : Nat) → (k : Nat) → Byte

end Sys2Proof.Config
end

