-- ==== Sys2Proof/Machine/State.lean ====
section
/-! DEFINITION. The state of one BSPF instance and of the agents at its ports, as plain data (10_state.md), with its
value after reset; the reasons a step can stop. -/

namespace Sys2Proof.Machine

/-- The flags of STATUS, each the bit its docstring names (10_state.md R27). -/
inductive Flag where
  /-- Bit 0: the word written to CMD is no command. -/
  | illcmd
  /-- Bit 1: an operand is outside the command's domain. -/
  | operand
  /-- Bit 2: MERGE would write past OB[15]. -/
  | capacity
  /-- Bit 3: CSIZE with psz(HS) < hsz(HS). -/
  | size
  /-- Bit 4: COPY with fewer packet bytes than psz(HS). -/
  | framing
  /-- Bit 5: COPY with more packet bytes than psz(HS). -/
  | overlong
  /-- Bit 6: MERGE ORed a 1 onto a 1; no fault, the command completes. -/
  | overlap
  /-- Bit 7: XFORM advanced CTR from 0xFFFFFFFF; no fault. -/
  | ctrwrap
  deriving DecidableEq, Repr

/-- The widths a bus access can have (20_memory.md R52: only 32 bits exists, the others answer ERROR). -/
inductive Width where
  | w8 | w16 | w32 | w64
  deriving DecidableEq, Repr

/-- `resp` (20_memory.md R51). -/
inductive Resp where
  | okay | error
  deriving DecidableEq, Repr

/-- The answer BSPF gives to one access (20_memory.md R51): a read returns `(resp, v)`, a write returns `resp`. -/
inductive Response where
  | read (resp : Resp) (v : Word)
  | write (resp : Resp)
  deriving DecidableEq, Repr

/-- HS[0..2] (10_state.md R24): always exactly three bytes. -/
structure HeaderScratch where
  b0 : Byte
  b1 : Byte
  b2 : Byte
  deriving DecidableEq, Repr

/-- A presented packet: a finite list of segments, each a finite, possibly empty, list of bytes (10_state.md R31). -/
abbrev Packet := List (List Byte)

/-- SINK (10_state.md R30). -/
structure Sink where
  /-- `Sink.bytes`: the bytes committed so far; its length is the write cursor. -/
  bytes : List Byte
  /-- The largest reserve SINK would grant now; none: it grants no reserve, of whatever size. Log 5. -/
  room : Option Nat
  deriving DecidableEq, Repr

/-- What XFORM sees at one of its reads (40_keystream.md R102). -/
structure XformView where
  ctr : Word
  rb : Vector Word 4
  deriving DecidableEq, Repr

/-- CODEC, configuration and not state (10_state.md R32): no step changes it. What the codec answers is OPEN
(41_header.md R111); the answers listed here are given, every other one is an uninterpreted constant of Config. So every
pair of functions that meets the contract is some `Codec`. Log 9. -/
structure Codec where
  /-- Which first header bytes select the 3-byte header. -/
  marks : List (Byte × Bool)
  /-- Packet sizes, below 65536. -/
  sizes : List (HeaderScratch × BitVec 16)
  deriving DecidableEq, Repr

/-- One atomic move of an agent outside the unit (70_reset_and_hazards.md R196). Log 1. -/
inductive Input where
  /-- HOST reads at a byte address of its address space (20_memory.md R51). -/
  | hostRead (addr : Nat) (width : Width)
  /-- HOST writes `v` at a byte address of its address space; a 32-bit access writes all of `v`. -/
  | hostWrite (addr : Nat) (width : Width) (v : Word)
  /-- XFORM reads CTR and RB (40_keystream.md R102). -/
  | xformRead
  /-- XFORM advances CTR (40_keystream.md R101). -/
  | xformAdvance
  /-- PKTSRC presents one packet (43_framer.md R150). -/
  | present (packet : Packet)
  /-- SINK changes what it would grant (43_framer.md R155). -/
  | sinkRoom (room : Option Nat)
  /-- The platform applies and releases the hardware reset (70_reset_and_hazards.md R180). -/
  | reset
  deriving DecidableEq, Repr

/-- The whole machine. -/
structure State where
  /-- CTR, the Counter (10_state.md R22). -/
  ctr : Word
  /-- RB[0..3], the RingBuffer (10_state.md R23). -/
  rb : Vector Word 4
  /-- HS[0..2], the HeaderScratch (10_state.md R24). -/
  hs : HeaderScratch
  /-- SB[0..15], the source scratch buffer (10_state.md R25). -/
  sb : Buffer
  /-- OB[0..15], the output buffer (10_state.md R26). -/
  ob : Buffer
  /-- STATUS[7:0] (10_state.md R27). -/
  status : BitVec 8
  /-- RESULT (10_state.md R28). -/
  result : Word
  /-- A COPY is held: its CMD write has no response yet (43_framer.md R155). -/
  held : Bool
  /-- The response BSPF gave to the last access it saw; none while that access is outstanding and after reset. -/
  response : Option Response
  /-- BASE / 256 (20_memory.md R61: BASE is a multiple of 256). Log 4. -/
  page : Nat
  /-- CODEC, outside the unit (10_state.md R32). Log 9. -/
  codec : Codec
  /-- SINK, outside the unit (10_state.md R30). -/
  sink : Sink
  /-- The presented packets, oldest first; each COPY takes one (10_state.md R31). Log 6. -/
  packets : List Packet
  /-- What XFORM saw at its last read (40_keystream.md R102). Log 7. -/
  xformView : Option XformView
  /-- The model's own: the agents' moves still to come, oldest first. Log 1. -/
  inputs : List Input
  /-- The model's own: how many reset events have been taken, the argument of the draws of 10_state.md R37. Log 2. -/
  resets : Nat
  deriving DecidableEq, Repr

/-- Why the machine stops. -/
inductive Fault where
  /-- Raised by COPY when no packet is presented: "A COPY with no packet presented is outside this spec's rules: a
  model gives it no step" (70_reset_and_hazards.md R187; 93_implementation_defined.md U21). Safe. -/
  | copyWithoutPacket
  deriving DecidableEq, Repr

/-- Why the model gives no meaning. -/
inductive Refusal where
  /-- Raised by exec's arm of an instruction that has no meaning yet. Safe. -/
  | notModelled (mnemonic : String)
  deriving DecidableEq, Repr

/-- The machine right after reset (70_reset_and_hazards.md R180): CTR, STATUS and RESULT are 0 (10_state.md R36, R38),
no command is in progress. The contents of RB, HS, SB and OB are unspecified (R37): 0 here is a DESIGN CHOICE, unsafe
where a claim rests on it (log 2). What the spec gives no reset value (SINK, PKTSRC, XFORM, CODEC, BASE, inputs) is the model's:
logs 1, 4, 5, 6, 7, 9. -/
def State.reset : State where
  ctr := 0
  rb := #v[0, 0, 0, 0]
  hs := ⟨0, 0, 0⟩
  sb := #v[0, 0, 0, 0, 0, 0, 0, 0, 0, 0, 0, 0, 0, 0, 0, 0]
  ob := #v[0, 0, 0, 0, 0, 0, 0, 0, 0, 0, 0, 0, 0, 0, 0, 0]
  status := 0
  result := 0
  held := false
  response := none
  page := 0
  codec := ⟨[], []⟩
  sink := ⟨[], none⟩
  packets := []
  xformView := none
  inputs := []
  resets := 0

end Sys2Proof.Machine
end

