-- ==== Sys2Proof/Machine/Flags.lean ====
section
/-! DEFINITION. The flags of STATUS: their bits, setting one, clearing by a written 1, the `fault` output, and when a
MERGE sets OVERLAP (10_state.md R27; 60_exceptions.md R170, R173; 42_packer.md R130). -/

namespace Sys2Proof.Machine

/-- The bit of STATUS a flag is (10_state.md R27). -/
def flagIndex : Flag → Nat
  | .illcmd => 0
  | .operand => 1
  | .capacity => 2
  | .size => 3
  | .framing => 4
  | .overlong => 5
  | .overlap => 6
  | .ctrwrap => 7

/-- STATUS with one bit set and the others 0. -/
def flagMask (f : Flag) : BitVec 8 := 1 <<< flagIndex f

/-- Whether a flag is set. -/
def flagOf (f : Flag) (s : State) : Bool := s.status.getLsbD (flagIndex f)

/-- Set one sticky flag; the others and the rest of the state keep their values (60_exceptions.md R160, R172). -/
def setFlag (f : Flag) (s : State) : State := { s with status := s.status ||| flagMask f }

/-- `STATUS[7:0] <- STATUS[7:0] & ~v[7:0]`; `v[31:8]` is ignored (60_exceptions.md R173). -/
def clearFlags (v : Word) (s : State) : State := { s with status := s.status &&& ~~~(v.setWidth 8) }

/-- The level output `fault`: 1 exactly when STATUS[7:0] is not 0 (60_exceptions.md R170). -/
def faultOutput (s : State) : Bool := s.status != 0

/-- OVERLAP's test on one byte: the old OB byte and the final SB byte have a 1 in the same bit (42_packer.md R130). -/
def bytesOverlap (old new : Byte) : Bool := (old &&& new) != 0

end Sys2Proof.Machine
end

