-- ==== Sys2Proof/Machine/Operands.lean ====
section
/-! DEFINITION. The operand arithmetic of the packer's commands: bit offsets, the domains of the operands, MERGE's byte
count and SPAN's formula. All of it is exact natural-number arithmetic (00_scope.md R12; 42_packer.md R140). -/

namespace Sys2Proof.Machine

/-- `floor(offset / 8)`: the byte a bit offset lies in (00_scope.md R11). -/
def byteIndex (offset : Nat) : Nat := offset / 8

/-- `offset & 7`: the position inside its byte, counted from the most significant bit (00_scope.md R11). Only these
three bits of srcoff are used (30_encoding.md R83). -/
def bitIndex (offset : Nat) : Nat := offset % 8

/-- The domain of `size` when the shift is not 0: 1 to 16 (42_packer.md R120, R123; 60_exceptions.md R162). -/
def sizeInDomain (size : Nat) : Bool := decide (1 ≤ size) && decide (size ≤ 16)

/-- `n2`, the count of bytes MERGE merges: step 3 of 42_packer.md R128. -/
def mergedCount (outoff srcoff n : Nat) : Nat := n + if bitIndex outoff > bitIndex srcoff then 1 else 0

/-- Whether a MERGE stays inside OB: `bo + n2 <= 16` (42_packer.md R133). -/
def mergeFits (outoff srcoff n : Nat) : Bool := decide (byteIndex outoff + mergedCount outoff srcoff n ≤ 16)

/-- `shiftSpan`, OMU's formula, `len` in bits (42_packer.md R134, R135); `len` is at least 1 where it is used. -/
def shiftSpan (len off : Nat) : Nat := (len + off - 1) / 8 + 1 - off / 8

end Sys2Proof.Machine
end

