-- ==== Sys2Proof/Machine/Ops.lean ====
section
/-! DEFINITION. The shared operations over registers and buffers: reading and writing a buffer byte and a buffer word,
the two shift loops and the OR loop of the packer, raising a fault and returning from it, RESULT, the header codec, and
SINK's reserve and commit. -/

namespace Sys2Proof.Machine

/-! ### Raising a fault (60_exceptions.md R160) and clearing it (R173) -/

/-- `raise <Fault>`: set the STATUS bit, change nothing else, end the command (60_exceptions.md R160). Nothing is saved
and control goes nowhere. The "return" is HOST's write of 1 to the flag, `clearFlags` (R173). -/
def raiseFault (f : Flag) (s : State) : Host.Outcome State Fault Refusal := .next (setFlag f s)

/-- `RESULT <- zext_32(v)` (10_state.md R28; 00_scope.md R13). -/
def setResult (v : Nat) (s : State) : State := { s with result := BitVec.ofNat 32 v }

/-! ### Bytes of a buffer -/

/-- `B[i]`. No rule reads past byte 15; there the function is 0. -/
def bufGet (b : Buffer) (i : Nat) : Byte := b[i]?.getD 0

/-- `B[i] <- x`. No rule writes past byte 15; there nothing is written. -/
def bufPut (b : Buffer) (i : Nat) (x : Byte) : Buffer := b.setIfInBounds i x

/-- Sixteen zero bytes. -/
def bufZero : Buffer := #v[0, 0, 0, 0, 0, 0, 0, 0, 0, 0, 0, 0, 0, 0, 0, 0]

/-- Buffer bit `k`: bit `7 - (k mod 8)` of byte `floor(k / 8)` (00_scope.md R11). -/
def bufBit (b : Buffer) (k : Nat) : Bool := (bufGet b (byteIndex k)).getLsbD (7 - bitIndex k)

/-- `B[0..size)` read as one big-endian number (00_scope.md R11; 42_packer.md R122). -/
def bufNumber (b : Buffer) : (size : Nat) → Nat
  | 0 => 0
  | k + 1 => bufNumber b k * 256 + (bufGet b k).toNat

/-- Register SBk or OBk: byte `4k + j` is bits `[31 - 8j : 24 - 8j]` (20_memory.md R59). -/
def bufWord (b : Buffer) (k : Nat) : Word :=
  bufGet b (4 * k) ++ bufGet b (4 * k + 1) ++ bufGet b (4 * k + 2) ++ bufGet b (4 * k + 3)

/-- Byte `j` of a register word in the buffer windows' order: bits `[31 - 8j : 24 - 8j]` (20_memory.md R59). -/
def wordByte (v : Word) (j : Nat) : Byte := v.extractLsb' (24 - 8 * j) 8

/-- Replace all 32 bits of SBk or OBk (20_memory.md R56, R59). -/
def bufPutWord (b : Buffer) (k : Nat) (v : Word) : Buffer :=
  bufPut (bufPut (bufPut (bufPut b (4 * k) (wordByte v 0)) (4 * k + 1) (wordByte v 1)) (4 * k + 2) (wordByte v 2))
    (4 * k + 3) (wordByte v 3)

/-- `x << s` on a byte, kept to 8 bits (00_scope.md R12). -/
def byteShl (x : Byte) (s : Nat) : Byte := x <<< s

/-- `x >> s` on a byte (00_scope.md R12). -/
def byteShr (x : Byte) (s : Nat) : Byte := x >>> s

/-! ### The shift primitives (42_packer.md R120, R123) -/

/-- The loop of 42_packer.md R120, `k` iterations from index `i` on, ascending:
`B[i-1] <- (B[i-1] << shift) | (B[i] >> (8 - shift))`. -/
def alignLoop (shift : Nat) : (k i : Nat) → Buffer → Buffer
  | 0, _, b => b
  | k + 1, i, b =>
    alignLoop shift k (i + 1)
      (bufPut b (i - 1) (byteShl (bufGet b (i - 1)) shift ||| byteShr (bufGet b i) (8 - shift)))

/-- Align-to-zero on `B[0..size)`, `size` at least 1: nothing when `shift = 0`, else the loop for `i = 1` to
`size - 1` and then `B[size-1] <- B[size-1] << shift` (42_packer.md R120). -/
def alignToZero (size shift : Nat) (b : Buffer) : Buffer :=
  if shift = 0 then b
  else
    let b' := alignLoop shift (size - 1) 1 b
    bufPut b' (size - 1) (byteShl (bufGet b' (size - 1)) shift)

/-- The loop of 42_packer.md R123 over the byte indexes `j` down to 1:
`B[j] <- (B[j] >> shift) | (B[j-1] << (8 - shift))`. -/
def positionLoop (shift : Nat) : (j : Nat) → Buffer → Buffer
  | 0, b => b
  | j + 1, b =>
    positionLoop shift j
      (bufPut b (j + 1) (byteShr (bufGet b (j + 1)) shift ||| byteShl (bufGet b j) (8 - shift)))

/-- Position-at-offset on `B[0..size)`, `size` at least 1: nothing when `shift = 0`, else the loop with the byte index
descending from `size - 1` to 1 and then `B[0] <- B[0] >> shift` (42_packer.md R123). -/
def positionAtOffset (size shift : Nat) (b : Buffer) : Buffer :=
  if shift = 0 then b
  else
    let b' := positionLoop shift (size - 1) b
    bufPut b' 0 (byteShr (bufGet b' 0) shift)

/-! ### The merge (42_packer.md R128) -/

/-- Step 4 of 42_packer.md R128, `k` iterations from index `i` on: test for OVERLAP, then
`OB[bo+i] <- OB[bo+i] | SB[i]`. The Bool is whether some test was met. -/
def orLoop (bo : Nat) (sb : Buffer) : (k i : Nat) → Buffer × Bool → Buffer × Bool
  | 0, _, acc => acc
  | k + 1, i, acc =>
    orLoop bo sb k (i + 1)
      (bufPut acc.1 (bo + i) (bufGet acc.1 (bo + i) ||| bufGet sb i),
        acc.2 || bytesOverlap (bufGet acc.1 (bo + i)) (bufGet sb i))

/-- Steps 1 and 2 of 42_packer.md R128: align `SB[0..n)` by `srcoff & 7`, then position `SB[0..n+1)` at
`outoff & 7`. -/
def mergeSource (outoff srcoff n : Nat) (sb : Buffer) : Buffer :=
  positionAtOffset (n + 1) (bitIndex outoff) (alignToZero n (bitIndex srcoff) sb)

/-- The whole of a MERGE that raises nothing (42_packer.md R128). -/
def mergeAt (outoff srcoff n : Nat) (s : State) : State :=
  let sb := mergeSource outoff srcoff n s.sb
  let out := orLoop (byteIndex outoff) sb (mergedCount outoff srcoff n) 0 (s.ob, false)
  let s' := { s with sb := sb, ob := out.1 }
  if out.2 then setFlag .overlap s' else s'

/-! ### The header codec (41_header.md R111) -/

/-- Whether a first header byte selects the 3-byte header: the codec's answer (log 9). -/
def headerIsLong (c : Codec) (b0 : Byte) : Bool :=
  match c.marks.lookup b0 with
  | some long => long
  | none => Config.headerIsLong b0

/-- `hsz(h)`: 1 or 3, selected by a marker in the first byte (41_header.md R111 (b)). -/
def headerSize (c : Codec) (h : HeaderScratch) : Nat := if headerIsLong c h.b0 then 3 else 1

/-- `psz(h)`: below 65536 (41_header.md R111 (c)). -/
def packetSize (c : Codec) (h : HeaderScratch) : Nat :=
  match c.sizes.lookup h with
  | some size => size.toNat
  | none => (Config.packetSize h.b0 h.b1 h.b2).toNat

/-! ### SINK (43_framer.md R150; 10_state.md R30) -/

/-- The write cursor: the length of `Sink.bytes` (10_state.md R30). -/
def sinkCursor (k : Sink) : Nat := k.bytes.length

/-- Whether SINK grants `reserve(n)` now: its own state, an input of the COPY step (10_state.md R30; log 5). -/
def sinkGrants (k : Sink) (n : Nat) : Bool :=
  match k.room with
  | none => false
  | some r => decide (n ≤ r)

/-- `Sink.commit(n)` of a view whose first `n` bytes are `view`'s: `Sink.bytes <- Sink.bytes ++ view[0..n)`. The room it
would still grant is smaller by `n` until SINK says otherwise (log 5). -/
def sinkCommit (n : Nat) (view : List Byte) (k : Sink) : Sink :=
  { bytes := k.bytes ++ view.take n, room := k.room.map (· - n) }

end Sys2Proof.Machine
end

