-- ==== Sys2Proof/Machine/Framer.lean ====
section
/-! DEFINITION. The packet framer: COPY (43_framer.md). -/

namespace Sys2Proof.Machine

/-- The presented packet has been taken: it is gone and no COPY is held (43_framer.md R150, "consumed in every
case"). -/
def takePacket (rest : List Packet) (s : State) : State := { s with packets := rest, held := false }

/-- `copyInto` with a declared size `S` and a presented packet (43_framer.md R150): FRAMING, then OVERLONG (R151, R152),
then the reserve; without a grant the COPY is held and has changed nothing, the packet still presented (R155); with it
the `S` bytes are copied and committed. Only the concatenation of the segments is looked at (R154). -/
def copyInto (S : Nat) (packet : Packet) (rest : List Packet) (s : State) : State :=
  if packet.flatten.length < S then setFlag .framing (takePacket rest s)
  else if S < packet.flatten.length then setFlag .overlong (takePacket rest s)
  else if sinkGrants s.sink S then
    { takePacket rest s with sink := sinkCommit S packet.flatten s.sink }
  else { s with held := true }

/-- COPY (43_framer.md R150). Without a presented packet it has no step (70_reset_and_hazards.md R187). -/
def execCopy (s : State) : Host.Outcome State Fault Refusal :=
  match s.packets with
  | [] => .fault .copyWithoutPacket
  | packet :: rest => .next (copyInto (packetSize s.codec s.hs) packet rest s)

end Sys2Proof.Machine
end

