-- ==== Sys2Proof/Machine/Header.lean ====
section
/-! DEFINITION. The header scratch and the size commands HSIZE, PSIZE, CSIZE (41_header.md). -/

namespace Sys2Proof.Machine

/-- The header load (41_header.md R110): all three bytes at once from bits [31:8], [7:0] ignored. -/
def loadHeader (v : Word) (s : State) : State := { s with hs := ⟨wordByte v 0, wordByte v 1, wordByte v 2⟩ }

/-- The value of register HDR (41_header.md R110; 10_state.md R34): the three bytes, [7:0] = 0. -/
def headerWord (h : HeaderScratch) : Word := h.b0 ++ h.b1 ++ h.b2 ++ (0 : Byte)

/-- HSIZE (41_header.md R112). -/
def execHsize (s : State) : Host.Outcome State Fault Refusal := .next (setResult (headerSize s.codec s.hs) s)

/-- PSIZE (41_header.md R113). -/
def execPsize (s : State) : Host.Outcome State Fault Refusal := .next (setResult (packetSize s.codec s.hs) s)

/-- OMU's `contentSize` on the codec's two answers (41_header.md R114): SIZE when `P < H`, else `P - H + d`. -/
def contentSize (P H : Nat) (d : Bool) (s : State) : State :=
  if P < H then setFlag .size s else setResult (P - H + d.toNat) s

/-- CSIZE (41_header.md R114). -/
def execCsize (d : Bool) (s : State) : Host.Outcome State Fault Refusal :=
  .next (contentSize (packetSize s.codec s.hs) (headerSize s.codec s.hs) d s)

end Sys2Proof.Machine
end

