-- ==== Sys2Proof/Machine/Keystream.lean ====
section
/-! DEFINITION. The keystream state: KRESET and XFORM's port (40_keystream.md). -/

namespace Sys2Proof.Machine

/-- KRESET (40_keystream.md R100): `CTR <- 0`. -/
def execKreset (s : State) : Host.Outcome State Fault Refusal := .next { s with ctr := 0 }

/-- XFORM's advance (40_keystream.md R101): CTR + 1; from 0xFFFFFFFF it wraps to 0 and sets CTRWRAP. -/
def xformAdvance (s : State) : State :=
  if s.ctr = 0xFFFFFFFF then setFlag .ctrwrap { s with ctr := 0 } else { s with ctr := s.ctr + 1 }

/-- XFORM's read (40_keystream.md R102): it sees CTR and RB; the unit changes nothing. -/
def xformRead (s : State) : State := { s with xformView := some ⟨s.ctr, s.rb⟩ }

end Sys2Proof.Machine
end

