-- ==== Sys2Proof/Machine/Packer.lean ====
section
/-! DEFINITION. The bit-shift packer: ALIGN0, POSOFF, MERGE, SPAN, SBCLR, OBCLR (42_packer.md). -/

namespace Sys2Proof.Machine

/-- ALIGN0 (42_packer.md R120): the shift test first (R126), then the operand's domain, then the shift of SB. -/
def execAlign0 (size shift : Nat) (s : State) : Host.Outcome State Fault Refusal :=
  if shift = 0 then .next s
  else if sizeInDomain size then .next { s with sb := alignToZero size shift s.sb }
  else raiseFault .operand s

/-- POSOFF (42_packer.md R123): the shift test first (R126), then the operand's domain, then the shift of SB. -/
def execPosoff (size shift : Nat) (s : State) : Host.Outcome State Fault Refusal :=
  if shift = 0 then .next s
  else if sizeInDomain size then .next { s with sb := positionAtOffset size shift s.sb }
  else raiseFault .operand s

/-- MERGE (42_packer.md R128): OPERAND, then CAPACITY (R133), each before anything is changed, then the merge. -/
def execMerge (outoff srcoff n : Nat) (s : State) : Host.Outcome State Fault Refusal :=
  if n = 0 then raiseFault .operand s
  else if mergeFits outoff srcoff n then .next (mergeAt outoff srcoff n s)
  else raiseFault .capacity s

/-- SPAN (42_packer.md R134). -/
def execSpan (len off : Nat) (s : State) : Host.Outcome State Fault Refusal :=
  if len = 0 then raiseFault .operand s else .next (setResult (shiftSpan len off) s)

/-- SBCLR (42_packer.md R137). -/
def execSbclr (s : State) : Host.Outcome State Fault Refusal := .next { s with sb := bufZero }

/-- OBCLR (42_packer.md R138). -/
def execObclr (s : State) : Host.Outcome State Fault Refusal := .next { s with ob := bufZero }

end Sys2Proof.Machine
end

