-- ==== Sys2Proof/Machine/Dispatch.lean ====
section
/-! DEFINITION. What each command does: one arm per constructor of Instr. -/

namespace Sys2Proof.Machine

def exec (i : Instr) (s : State) : Host.Outcome State Fault Refusal :=
  match i with
  | .kreset => Sys2Proof.Machine.execKreset s
  | .hsize => Sys2Proof.Machine.execHsize s
  | .psize => Sys2Proof.Machine.execPsize s
  | .csize d => Sys2Proof.Machine.execCsize d s
  | .align0 size shift => Sys2Proof.Machine.execAlign0 size shift s
  | .posoff size shift => Sys2Proof.Machine.execPosoff size shift s
  | .merge outoff srcoff n => Sys2Proof.Machine.execMerge outoff srcoff n s
  | .span len off => Sys2Proof.Machine.execSpan len off s
  | .sbclr => Sys2Proof.Machine.execSbclr s
  | .obclr => Sys2Proof.Machine.execObclr s
  | .copy => Sys2Proof.Machine.execCopy s

end Sys2Proof.Machine
end

