-- ==== Sys2Proof/Machine/Bus.lean ====
section
/-! DEFINITION. The register window: where BASE lies, the register map, reads, writes, and the write of CMD that runs a
command (10_state.md R34, R35; 20_memory.md R50 to R59; 30_encoding.md R80). -/

namespace Sys2Proof.Machine

/-- The registers of 10_state.md R34. -/
inductive Reg where
  | cmd | status | result | ctr
  | rb (k : Fin 4)
  | hdr | const
  | sb (k : Fin 4)
  | ob (k : Fin 4)
  deriving DecidableEq, Repr

/-- The register map (10_state.md R34). None: a reserved or misaligned offset. -/
def regAt : (off : Nat) → Option Reg
  | 0x00 => some .cmd
  | 0x04 => some .status
  | 0x08 => some .result
  | 0x0C => some .ctr
  | 0x10 => some (.rb 0)
  | 0x14 => some (.rb 1)
  | 0x18 => some (.rb 2)
  | 0x1C => some (.rb 3)
  | 0x20 => some .hdr
  | 0x24 => some .const
  | 0x40 => some (.sb 0)
  | 0x44 => some (.sb 1)
  | 0x48 => some (.sb 2)
  | 0x4C => some (.sb 3)
  | 0x50 => some (.ob 0)
  | 0x54 => some (.ob 1)
  | 0x58 => some (.ob 2)
  | 0x5C => some (.ob 3)
  | _ => none

/-- The register an access reaches: 32 bits wide, at a multiple of 4, and an offset of the map
(20_memory.md R52, R53). None: the access gets ERROR. -/
def accessedReg (off : Nat) (width : Width) : Option Reg :=
  if width = .w32 ∧ off % 4 = 0 then regAt off else none

/-- BASE (20_memory.md R61): a multiple of 256. -/
def base (s : State) : Nat := Config.windowBytes * s.page

/-- The offset from BASE of an address inside the window; none: the access is not addressed to BSPF
(20_memory.md R51). -/
def windowOffset (addr : Nat) (s : State) : Option Nat :=
  if base s ≤ addr ∧ addr < base s + Config.windowBytes then some (addr - base s) else none

/-- CONST (10_state.md R29): CHKKEY, LENKEY, EBS, DBS. -/
def constWord : Word :=
  Config.checksumKey ++ Config.lengthKey ++ Config.encryptedBlockSize ++ Config.decryptedBlockSize

/-- The value an OKAY read returns (10_state.md R34; 20_memory.md R54, R55): CMD reads 0, STATUS[31:8] and HDR[7:0]
read 0. -/
def readReg (s : State) : Reg → Word
  | .cmd => 0
  | .status => s.status.setWidth 32
  | .result => s.result
  | .ctr => s.ctr
  | .rb k => s.rb[k]
  | .hdr => headerWord s.hs
  | .const => constWord
  | .sb k => bufWord s.sb k
  | .ob k => bufWord s.ob k

/-- Run a CMD word (30_encoding.md R80): a word that is no command raises ILLCMD (R88). -/
def runCommand (w : Word) (s : State) : Host.Outcome State Fault Refusal :=
  match decode w with
  | .ok i => exec i s
  | .error _ => raiseFault .illcmd s

/-- The response to an access, given when the access is complete: a held COPY's write has none yet
(43_framer.md R155). -/
def respond (r : Response) (s : State) : State := if s.held then s else { s with response := some r }

/-- The response after an outcome. -/
def respondTo (r : Response) : Host.Outcome State Fault Refusal → Host.Outcome State Fault Refusal
  | .next s => .next (respond r s)
  | .fault f => .fault f
  | .refused f => .refused f

/-- A write that is OKAY to a register other than CMD; none: the register cannot be written, ERROR
(20_memory.md R54, R56). -/
def writeReg (v : Word) (s : State) : Reg → Option State
  | .cmd => none
  | .status => some (clearFlags v s)
  | .result => none
  | .ctr => none
  | .rb k => some { s with rb := s.rb.set k v }
  | .hdr => some (loadHeader v s)
  | .const => none
  | .sb k => some { s with sb := bufPutWord s.sb k v }
  | .ob k => some { s with ob := bufPutWord s.ob k v }

/-- `MemRead(off, ·)` (20_memory.md R51 to R55): the response; no other state changes. -/
def busRead (off : Nat) (width : Width) (s : State) : State :=
  match accessedReg off width with
  | some r => { s with response := some (.read .okay (readReg s r)) }
  | none => { s with response := some (.read .error 0) }

/-- `MemWrite(off, ·, v)` (20_memory.md R51 to R56). A write of CMD runs one command to its end before the response is
given; while the command runs, the access has no response. -/
def busWrite (off : Nat) (width : Width) (v : Word) (s : State) : Host.Outcome State Fault Refusal :=
  match accessedReg off width with
  | some .cmd => respondTo (.write .okay) (runCommand v { s with response := none })
  | some r =>
    match writeReg v s r with
    | some s' => .next { s' with response := some (.write .okay) }
    | none => .next { s with response := some (.write .error) }
  | none => .next { s with response := some (.write .error) }

end Sys2Proof.Machine
end

