-- ==== Sys2Proof/Machine/Agents.lean ====
section
/-! DEFINITION. The agents' moves and the order they are taken in: HOST, XFORM, PKTSRC, SINK, the platform's reset; the
end of a hold (00_scope.md R6, R7; 43_framer.md R155; 70_reset_and_hazards.md R180, R196). -/

namespace Sys2Proof.Machine

/-- The hardware reset as an event in a run (70_reset_and_hazards.md R180): CTR, STATUS and RESULT are 0, a held COPY is
abandoned with nothing committed, and RB, HS, SB and OB are drawn anew (10_state.md R37). SINK, PKTSRC and XFORM are not
reset by it. -/
def hardwareReset (s : State) : State :=
  let draw := s.resets
  let src := Config.resetSource draw
  let out := Config.resetOutput draw
  { s with
    ctr := 0
    rb := #v[Config.resetRing draw 0, Config.resetRing draw 1, Config.resetRing draw 2, Config.resetRing draw 3]
    hs := ⟨Config.resetHeader draw 0, Config.resetHeader draw 1, Config.resetHeader draw 2⟩
    sb := #v[src 0, src 1, src 2, src 3, src 4, src 5, src 6, src 7,
      src 8, src 9, src 10, src 11, src 12, src 13, src 14, src 15]
    ob := #v[out 0, out 1, out 2, out 3, out 4, out 5, out 6, out 7,
      out 8, out 9, out 10, out 11, out 12, out 13, out 14, out 15]
    status := 0
    result := 0
    held := false
    response := none
    resets := draw + 1 }

/-- PKTSRC presents one more packet, behind those already presented (log 6). -/
def presentPacket (packet : Packet) (s : State) : State := { s with packets := s.packets ++ [packet] }

/-- SINK changes what it would grant (43_framer.md R155). -/
def setSinkRoom (room : Option Nat) (s : State) : State := { s with sink := { s.sink with room := room } }

/-- One move of an agent. An access outside the window is not seen by BSPF (20_memory.md R51). -/
def runInput (e : Input) (s : State) : Host.Outcome State Fault Refusal :=
  match e with
  | .hostRead addr width =>
    match windowOffset addr s with
    | some off => .next (busRead off width s)
    | none => .next s
  | .hostWrite addr width v =>
    match windowOffset addr s with
    | some off => busWrite off width v s
    | none => .next s
  | .xformRead => .next (xformRead s)
  | .xformAdvance => .next (xformAdvance s)
  | .present packet => .next (presentPacket packet s)
  | .sinkRoom room => .next (setSinkRoom room s)
  | .reset => .next (hardwareReset s)

/-- Whether a move is HOST's. -/
def fromHost : Input → Bool
  | .hostRead _ _ => true
  | .hostWrite _ _ _ => true
  | .xformRead | .xformAdvance | .present _ | .sinkRoom _ | .reset => false

/-- The next move and those that stay: the oldest; while a COPY is held, the oldest that is not HOST's, since no other
HOST access is taken during a hold (43_framer.md R155). -/
def nextInput (held : Bool) : List Input → Option (Input × List Input)
  | [] => none
  | e :: rest =>
    if held && fromHost e then
      match nextInput held rest with
      | some (e', rest') => some (e', e :: rest')
      | none => none
    else some (e, rest)

/-- One step. A held COPY that SINK now grants completes, in one atomic step, and its CMD write gets its response
(20_memory.md R58; 43_framer.md R155). Otherwise the next move is taken. With no move to take the machine stays as it
is: idle (60_exceptions.md R176), or hung in a hold (70_reset_and_hazards.md R190). -/
def agentStep (s : State) : Host.Outcome State Fault Refusal :=
  if s.held && sinkGrants s.sink (packetSize s.codec s.hs) then respondTo (.write .okay) (exec .copy s)
  else
    match nextInput s.held s.inputs with
    | some (e, rest) => runInput e { s with inputs := rest }
    | none => .next s

end Sys2Proof.Machine
end

