-- ==== Sys2Proof/Machine/Step.lean ====
section
/-! DEFINITION. The step, and how one command word is put where the next step runs it. -/

namespace Sys2Proof.Machine

/-- One step of the machine. -/
def step (s : State) : Host.Outcome State Fault Refusal := agentStep s

/-- `s` with HOST's 32-bit write of the table word to CMD as the very next move. BSPF fetches nothing (10_state.md R21):
its program is the order of HOST's accesses. A hold would keep HOST waiting, so none is left. COPY takes a packet that
PKTSRC must present with it (70_reset_and_hazards.md R187), so when none is presented an empty one is; no other word
needs one. Log 10. -/
def State.withFetchWord (s : State) (nbits w : Nat) : State :=
  { s with
    held := false
    packets := if tableWord nbits w = encode .copy ∧ s.packets = [] then [[]] else s.packets
    inputs := .hostWrite (base s) .w32 (tableWord nbits w) :: s.inputs }

end Sys2Proof.Machine
end

