-- ==== Sys2Proof/Safety.lean ====
section
/-! DEFINITION. What claims about runs are stated in: the launch premises of 70_reset_and_hazards.md R197, each a named
predicate, the end of a run (R195), and the invariant of a held COPY (43_framer.md R155). -/

namespace Sys2Proof.Safety

open Sys2Proof.Machine

/-- `NoFault`: `STATUS[7:0] = 0` (70_reset_and_hazards.md R197). -/
abbrev NoFault (s : State) : Prop := s.status = 0

/-- `NoHold`: no COPY is held (R197); between the model's steps no other access is outstanding. -/
abbrev NoHold (s : State) : Prop := s.held = false

/-- `CleanOB`: every byte of OB is 0 (R197). -/
abbrev CleanOB (s : State) : Prop := s.ob = bufZero

/-- `CleanSB`: every byte of SB is 0 (R197). -/
abbrev CleanSB (s : State) : Prop := s.sb = bufZero

/-- `HeaderCurrent`: HS holds the first three bytes of the packet about to be copied (R197). DESIGN CHOICE: a packet of
fewer than three bytes has no first three bytes, and the premise is false for it. What HS then holds the spec leaves to
HOST (41_header.md R110; 91_not_in_source.md N11). Log 14. -/
abbrev HeaderCurrent (s : State) : Prop :=
  s.packets.head?.map (fun p => p.flatten.take 3) = some [s.hs.b0, s.hs.b1, s.hs.b2]

/-- `CodecOK`: the contract of 41_header.md R111 on the codec's two functions (R197). -/
def CodecOK (hsz psz : HeaderScratch → Nat) : Prop :=
  (∀ h, hsz h = 1 ∨ hsz h = 3) ∧ (∀ h h', h.b0 = h'.b0 → hsz h = hsz h') ∧ ∀ h, psz h < 65536

/-- The reserve a held COPY waits for is granted: SINK grants it now, or a move still to come makes room for it, or
(DESIGN CHOICE, log 16) a reset still to come abandons it. -/
def ReserveGranted (s : State) : Prop :=
  sinkGrants s.sink (packetSize s.codec s.hs) = true ∨
    ∃ e ∈ s.inputs, e = .reset ∨ ∃ m, e = .sinkRoom (some m) ∧ packetSize s.codec s.hs ≤ m

/-- `SinkFair`: SINK eventually grants every reserve (R197), each one a COPY comes to wait for in the run from `s`. -/
def SinkFair (s : State) : Prop :=
  ∀ n t, Sys2Proof.core.run n s = .next t → t.held = true → ReserveGranted t

/-- Which of RB0 to RB3 have been written since the last reset, as a fact about the moves taken, oldest first
(R197: BSPF keeps no record of it). `page` is BASE / 256. -/
def ringWritten (page : Nat) : List Input → List (Fin 4) → List (Fin 4)
  | [], k => k
  | .reset :: rest, _ => ringWritten page rest []
  | .hostWrite addr width _ :: rest, k =>
    if addr < Config.windowBytes * page then ringWritten page rest k
    else
      match accessedReg (addr - Config.windowBytes * page) width with
      | some (.rb j) => ringWritten page rest (j :: k)
      | _ => ringWritten page rest k
  | _ :: rest, k => ringWritten page rest k

/-- `KeyLoaded`: RB0 to RB3 have all been written since reset (R197), a ghost fact of the moves taken. -/
abbrev KeyLoaded (page : Nat) (taken : List Input) : Prop :=
  ∀ k : Fin 4, k ∈ ringWritten page taken []

/-- A run is over when every access of HOST has its response (70_reset_and_hazards.md R195). DESIGN CHOICE: R195's runs
name no reset; where a reset abandons a held COPY, whose CMD write then never gets a response, the run counts as over when
no access of HOST is left. Log 15. -/
abbrev RunOver (s : State) : Prop := s.held = false ∧ ∀ e ∈ s.inputs, fromHost e = false

/-- A held COPY has passed its length tests: its packet is still presented and has exactly the declared size, so what it
waits for is SINK's grant alone (43_framer.md R155). -/
abbrev HeldCopyMatches (s : State) : Prop :=
  s.held = true → ∃ packet rest, s.packets = packet :: rest ∧ packet.flatten.length = packetSize s.codec s.hs

/-- A held CMD write has no response (43_framer.md R155). -/
abbrev HeldUnanswered (s : State) : Prop := s.held = true → s.response = none

/-- The next step takes HOST's aligned 32-bit write of `v` at `off` from BASE: no COPY is held and the write is the
oldest move. -/
abbrev HostWriteNext (s : State) (off : Nat) (v : Word) (rest : List Input) : Prop :=
  s.held = false ∧ s.inputs = .hostWrite (base s + off) .w32 v :: rest

/-- The next step takes HOST's aligned 32-bit read at `off` from BASE. -/
abbrev HostReadNext (s : State) (off : Nat) (rest : List Input) : Prop :=
  s.held = false ∧ s.inputs = .hostRead (base s + off) .w32 :: rest

/-- No held COPY is granted now, so the next step takes a move, and the move is `e` with `rest` left: the oldest, or
during a hold the oldest that is not HOST's. -/
abbrev MoveNext (s : State) (e : Input) (rest : List Input) : Prop :=
  (s.held && sinkGrants s.sink (packetSize s.codec s.hs)) = false ∧ nextInput s.held s.inputs = some (e, rest)

/-- The six flags that are faults; OVERLAP and CTRWRAP are flags and no faults (60_exceptions.md R167). -/
def isFault : Flag → Bool
  | .illcmd | .operand | .capacity | .size | .framing | .overlong => true
  | .overlap | .ctrwrap => false

/-- The complete list of operands outside their command's domain (60_exceptions.md R162). -/
def outsideDomain : Instr → Bool
  | .align0 size shift => shift != 0 && (size == 0 || decide (16 < size))
  | .posoff size shift => shift != 0 && (size == 0 || decide (16 < size))
  | .merge _ _ n => n == 0
  | .span len _ => len == 0
  | .kreset | .hsize | .psize | .csize _ | .sbclr | .obclr | .copy => false

/-- The four packer commands that do arithmetic or shifts, and the two clears (42_packer.md R139). -/
def isPacker : Instr → Bool
  | .align0 _ _ | .posoff _ _ | .merge _ _ _ | .span _ _ | .sbclr | .obclr => true
  | .kreset | .hsize | .psize | .csize _ | .copy => false

/-- The opcode table's masks and matches (30_encoding.md R84): a word `w` is the row's command when
`w & mask = match`. -/
def commandTable : List (Word × Word) :=
  [(0xFFFFFFFF, 0x10000000), (0xFFFFFFFF, 0x20000000), (0xFFFFFFFF, 0x21000000), (0xFFFFFFFE, 0x22000000),
    (0xFFFFE0F8, 0x30000000), (0xFFFFE0F8, 0x31000000), (0xFF0F8080, 0x32000000), (0xFFFF0080, 0x33000000),
    (0xFFFFFFFF, 0x34000000), (0xFFFFFFFF, 0x35000000), (0xFFFFFFFF, 0x40000000)]

end Sys2Proof.Safety
end

