-- ==== Sys2Proof/Certificates/Slice0/Obligations.lean ====
section
/-! DEFINITION. The statements for the provers, from the numbered rules of spec/, file by file. A statement about an
instruction's effect gives the whole next state as the old one with the named fields changed, so it is its frame too. -/

open Sys2Proof Sys2Proof.Machine Sys2Proof.Safety

/-! ### Encoding (30_encoding.md) -/

/-- 30_encoding.md R81, R82, R90: the decoder reads back what the assembler writes, every operand at every value its
field admits. -/
def Obligations.DecodeOfEncodeIsTheInstruction : Prop :=
  ∀ i : Instr, i.wellFormed = true → decode (encode i) = .ok i

/-- 30_encoding.md R85, R88: a word is at most one command, and its decoding keeps every bit of it. -/
def Obligations.EncodeOfDecodeIsTheWord : Prop :=
  ∀ (w : Word) (i : Instr), decode w = .ok i → i.wellFormed = true ∧ encode i = w

/-- 30_encoding.md R84: each row of the opcode map, "a word `w` is the command when `w & mask = match`". -/
def Obligations.DecodingFollowsMatchAndMask : Prop :=
  ∀ w : Word,
    (decode w = .ok .kreset ↔ w &&& 0xFFFFFFFF = 0x10000000) ∧
    (decode w = .ok .hsize ↔ w &&& 0xFFFFFFFF = 0x20000000) ∧
    (decode w = .ok .psize ↔ w &&& 0xFFFFFFFF = 0x21000000) ∧
    ((∃ d, decode w = .ok (.csize d)) ↔ w &&& 0xFFFFFFFE = 0x22000000) ∧
    ((∃ size shift, decode w = .ok (.align0 size shift)) ↔ w &&& 0xFFFFE0F8 = 0x30000000) ∧
    ((∃ size shift, decode w = .ok (.posoff size shift)) ↔ w &&& 0xFFFFE0F8 = 0x31000000) ∧
    ((∃ outoff srcoff n, decode w = .ok (.merge outoff srcoff n)) ↔ w &&& 0xFF0F8080 = 0x32000000) ∧
    ((∃ len off, decode w = .ok (.span len off)) ↔ w &&& 0xFFFF0080 = 0x33000000) ∧
    (decode w = .ok .sbclr ↔ w &&& 0xFFFFFFFF = 0x34000000) ∧
    (decode w = .ok .obclr ↔ w &&& 0xFFFFFFFF = 0x35000000) ∧
    (decode w = .ok .copy ↔ w &&& 0xFFFFFFFF = 0x40000000)

/-- 30_encoding.md R81, R90: words written out from the formats decode to the commands they stand for. -/
def Obligations.WordsFromTheFormatsDecode : Prop :=
  decode 0x10000000 = .ok .kreset ∧ decode 0x22000001 = .ok (.csize true) ∧
  decode 0x30000304 = .ok (.align0 3 4) ∧ decode 0x31001005 = .ok (.posoff 16 5) ∧
  decode 0x3280003F = .ok (.merge 63 0 8) ∧ decode 0x32102E4B = .ok (.merge 75 46 1) ∧
  decode 0x3300FF7F = .ok (.span 255 127) ∧ decode 0x40000000 = .ok .copy ∧
  decode 0x30002004 = .error (.reservedBit 0x30) ∧ decode 0x36000000 = .error (.reservedOpcode 0x36)

/-- 60_exceptions.md R161, 30_encoding.md R88: HOST's write to CMD of a word that is none of the eleven commands sets
ILLCMD, is answered OKAY, and changes nothing else. -/
def Obligations.WordThatIsNoCommandRaisesIllcmdOnly : Prop :=
  ∀ (s : State) (w : Word) (rest : List Input), HostWriteNext s 0x00 w rest →
    (∀ row ∈ commandTable, w &&& row.1 ≠ row.2) →
    step s = .next { s with
      inputs := rest, status := s.status ||| 0x01, response := some (.write .okay) }

/-- 30_encoding.md R80, 20_memory.md R56: HOST's write to CMD of a word that decodes to `i` runs `i`, the move being
gone and the access unanswered meanwhile; the response OKAY is given when the command is complete, and a held COPY's is
not given; a stop of the command is a stop of the step. That a held COPY answers a next state is the model's choice
(log 1). -/
def Obligations.StepRunsTheDecodedCommand : Prop :=
  ∀ (s : State) (w : Word) (i : Instr) (rest : List Input), HostWriteNext s 0x00 w rest → decode w = .ok i →
    (∀ t, exec i { s with inputs := rest, response := none } = .next t →
      step s = .next (if t.held then t else { t with response := some (.write .okay) })) ∧
    (∀ f, exec i { s with inputs := rest, response := none } = .fault f → step s = .fault f)

/-! ### Keystream (40_keystream.md) -/

/-- 40_keystream.md R100: "sets Counter to 0; idempotent". No other element of the state changes. A KRESET word with a
non-zero reserved bit is an illegal command. -/
def Obligations.KresetSetsTheCounterToZero : Prop :=
  decode 0x10000000 = .ok .kreset ∧
  (∀ w : Word, bitField w 31 24 = 0x10 → w ≠ 0x10000000 → decode w = .error (.reservedBit 0x10)) ∧
  ∀ s : State, exec .kreset s = .next { s with ctr := 0 } ∧
    exec .kreset { s with ctr := 0 } = .next { s with ctr := 0 }

/-- 40_keystream.md R101: one advance adds exactly 1; from 0xFFFFFFFF it wraps to 0 and sets CTRWRAP; nothing else
changes. It is taken during a hold too (43_framer.md R155). No command but KRESET touches CTR. -/
def Obligations.XformAdvanceAddsOneOrWraps : Prop :=
  (∀ (s : State) (rest : List Input), MoveNext s .xformAdvance rest →
    (s.ctr = 0xFFFFFFFF →
      step s = .next { s with inputs := rest, ctr := 0, status := s.status ||| 0x80 }) ∧
    (s.ctr ≠ 0xFFFFFFFF → step s = .next { s with inputs := rest, ctr := s.ctr + 1 })) ∧
  ∀ (i : Instr) (s t : State), exec i s = .next t → i ≠ .kreset → t.ctr = s.ctr

/-- 40_keystream.md R102: XFORM's read sees CTR and the four RB words as they are, and changes nothing of the unit. -/
def Obligations.XformReadSeesCounterAndRing : Prop :=
  ∀ (s : State) (rest : List Input), MoveNext s .xformRead rest →
    step s = .next { s with inputs := rest, xformView := some ⟨s.ctr, s.rb⟩ }

/-- 40_keystream.md R104, R101: the only ways to change CTR are KRESET, the advance and reset. -/
def Obligations.OnlyKresetAdvanceAndResetWriteTheCounter : Prop :=
  ∀ s t : State, step s = .next t → t.ctr ≠ s.ctr →
    ∃ e rest, MoveNext s e rest ∧
      (e = .xformAdvance ∨ e = .reset ∨ e = .hostWrite (base s) .w32 0x10000000)

/-! ### Header scratch and sizes (41_header.md) -/

/-- 41_header.md R111: the model's codec meets the contract whatever its answers are: `hsz` is 1 or 3 and depends on the
first byte only, `psz` is below 65536. That it does so by construction is the model's choice (log 9). -/
def Obligations.EveryCodecMeetsTheContract : Prop :=
  ∀ c : Codec, CodecOK (headerSize c) (packetSize c)

/-- 41_header.md R110: a write of HDR replaces the three bytes from bits 31:8, and a read then returns them with
bits 7:0 at 0. -/
def Obligations.HeaderLoadReplacesThreeBytes : Prop :=
  ∀ (s : State) (v : Word) (rest : List Input), HostWriteNext s 0x20 v rest →
    ∃ t, step s = .next t ∧
      t = { s with inputs := rest, hs := t.hs, response := some (.write .okay) } ∧
      t.hs.b0 = v.extractLsb' 24 8 ∧ t.hs.b1 = v.extractLsb' 16 8 ∧ t.hs.b2 = v.extractLsb' 8 8 ∧
      readReg t .hdr = v &&& 0xFFFFFF00

/-- 41_header.md R112: HSIZE puts `hsz` of the three HS bytes in RESULT and changes nothing else. -/
def Obligations.HsizeReturnsTheHeaderSize : Prop :=
  decode 0x20000000 = .ok .hsize ∧
  ∀ s : State, exec .hsize s = .next { s with result := BitVec.ofNat 32 (headerSize s.codec s.hs) }

/-- 41_header.md R113: PSIZE puts `psz` of the three HS bytes in RESULT and changes nothing else. -/
def Obligations.PsizeReturnsThePacketSize : Prop :=
  decode 0x21000000 = .ok .psize ∧
  ∀ s : State, exec .psize s = .next { s with result := BitVec.ofNat 32 (packetSize s.codec s.hs) }

/-- 41_header.md R114: CSIZE with `psz >= hsz` puts `psz - hsz + d` in RESULT; with `psz < hsz` it raises SIZE, the test
being before `d` is added, and RESULT keeps its value. -/
def Obligations.CsizeReturnsContentSizeOrRaisesSize : Prop :=
  (∀ d : Bool, decode (0x22000000 + BitVec.ofNat 32 d.toNat) = .ok (.csize d)) ∧
  ∀ (d : Bool) (s : State),
    (headerSize s.codec s.hs ≤ packetSize s.codec s.hs →
      exec (.csize d) s = .next { s with
        result := BitVec.ofNat 32 (packetSize s.codec s.hs - headerSize s.codec s.hs + d.toNat) }) ∧
    (packetSize s.codec s.hs < headerSize s.codec s.hs →
      exec (.csize d) s = .next { s with status := s.status ||| 0x08 })

/-- 41_header.md R115, which the spec derives from R114: the source's four numbers, and in general CSIZE 1 gives one
more than CSIZE 0 whenever neither faults, and they fault together. -/
def Obligations.ContentSizeLaw : Prop :=
  (∀ (s : State) (d : Bool), packetSize s.codec s.hs = 14 → headerSize s.codec s.hs = 3 →
    exec (.csize d) s = .next { s with result := if d then 12 else 11 }) ∧
  (∀ (s : State) (d : Bool), packetSize s.codec s.hs = 11 → headerSize s.codec s.hs = 1 →
    exec (.csize d) s = .next { s with result := if d then 11 else 10 }) ∧
  ∀ s : State, ∃ t0 t1, exec (.csize false) s = .next t0 ∧ exec (.csize true) s = .next t1 ∧
    t0.status = t1.status ∧
    (headerSize s.codec s.hs ≤ packetSize s.codec s.hs → t1.result.toNat = t0.result.toNat + 1)

/-! ### The shift primitives (42_packer.md section 1) -/

/-- 42_packer.md R126: with `shift = 0` both primitives are no-ops for every value of the size field, no fault. -/
def Obligations.ShiftByZeroIsANoOp : Prop :=
  ∀ (size : Nat) (s : State), size ≤ 31 →
    exec (.align0 size 0) s = .next s ∧ exec (.posoff size 0) s = .next s

/-- 42_packer.md R120 in the parallel form of R121, which the spec derives: every byte of the region at once from the
old bytes; the bytes past the region, and everything else, unchanged. -/
def Obligations.Align0ShiftsEveryByteFromTheOldOnes : Prop :=
  ∀ (size shift : Nat) (s : State), 1 ≤ size → size ≤ 16 → 1 ≤ shift → shift ≤ 7 →
    ∃ t, exec (.align0 size shift) s = .next t ∧ t = { s with sb := t.sb } ∧
      ∀ j, j < 16 → bufGet t.sb j =
        if j + 1 < size then (bufGet s.sb j <<< shift) ||| (bufGet s.sb (j + 1) >>> (8 - shift))
        else if j + 1 = size then bufGet s.sb j <<< shift
        else bufGet s.sb j

/-- 42_packer.md R123 in the parallel form of R124, which the spec derives. -/
def Obligations.PosoffShiftsEveryByteFromTheOldOnes : Prop :=
  ∀ (size shift : Nat) (s : State), 1 ≤ size → size ≤ 16 → 1 ≤ shift → shift ≤ 7 →
    ∃ t, exec (.posoff size shift) s = .next t ∧ t = { s with sb := t.sb } ∧
      ∀ j, j < 16 → bufGet t.sb j =
        if j = 0 then bufGet s.sb 0 >>> shift
        else if j < size then (bufGet s.sb j >>> shift) ||| (bufGet s.sb (j - 1) <<< (8 - shift))
        else bufGet s.sb j

/-- 42_packer.md R122, which the spec derives: ALIGN0 on the big-endian bit string. New buffer bit `k` is old bit
`k + shift`, the last `shift` bits of the region are 0; as a number the region becomes `(V * 2^shift) mod 2^T`. -/
def Obligations.Align0DiscardsLeadingBits : Prop :=
  ∀ (size shift : Nat) (s : State), 1 ≤ size → size ≤ 16 → shift ≤ 7 →
    ∃ t, exec (.align0 size shift) s = .next t ∧ t = { s with sb := t.sb } ∧
      (∀ k, k < 8 * size →
        bufBit t.sb k = if k < 8 * size - shift then bufBit s.sb (k + shift) else false) ∧
      (∀ k, 8 * size ≤ k → bufBit t.sb k = bufBit s.sb k) ∧
      bufNumber t.sb size = bufNumber s.sb size * 2 ^ shift % 2 ^ (8 * size)

/-- 42_packer.md R125, which the spec derives: POSOFF on the big-endian bit string. The first `shift` bits are 0, new
buffer bit `k` is old bit `k - shift`; as a number the region becomes `floor(V / 2^shift)`. -/
def Obligations.PosoffPadsLeadingBits : Prop :=
  ∀ (size shift : Nat) (s : State), 1 ≤ size → size ≤ 16 → shift ≤ 7 →
    ∃ t, exec (.posoff size shift) s = .next t ∧ t = { s with sb := t.sb } ∧
      (∀ k, k < 8 * size →
        bufBit t.sb k = if k < shift then false else bufBit s.sb (k - shift)) ∧
      (∀ k, 8 * size ≤ k → bufBit t.sb k = bufBit s.sb k) ∧
      bufNumber t.sb size = bufNumber s.sb size / 2 ^ shift

/-- 42_packer.md R127, which the spec derives: ALIGN0 then POSOFF clears the first `shift` bits of the region and keeps
every other bit; POSOFF then ALIGN0 clears the last `shift` bits. -/
def Obligations.ShiftRoundTripClearsThePadding : Prop :=
  ∀ (size shift : Nat) (s : State), 1 ≤ size → size ≤ 16 → shift ≤ 7 →
    (∃ t u, exec (.align0 size shift) s = .next t ∧ exec (.posoff size shift) t = .next u ∧
      u = { s with sb := u.sb } ∧ bufGet u.sb 0 = bufGet s.sb 0 &&& ((0xFF : Byte) >>> shift) ∧
      ∀ j, 1 ≤ j → j < 16 → bufGet u.sb j = bufGet s.sb j) ∧
    (∃ t u, exec (.posoff size shift) s = .next t ∧ exec (.align0 size shift) t = .next u ∧
      u = { s with sb := u.sb } ∧ bufGet u.sb (size - 1) = bufGet s.sb (size - 1) &&& ((0xFF : Byte) <<< shift) ∧
      ∀ j, j ≠ size - 1 → j < 16 → bufGet u.sb j = bufGet s.sb j)

/-- 60_exceptions.md R162: the complete list of what raises OPERAND, and that it changes nothing but the flag. -/
def Obligations.OperandIsRaisedExactlyOutsideTheDomain : Prop :=
  (∀ (i : Instr) (s : State), outsideDomain i = true →
    exec i s = .next { s with status := s.status ||| 0x02 }) ∧
  ∀ (i : Instr) (s t : State), exec i s = .next t → flagOf .operand s = false → flagOf .operand t = true →
    outsideDomain i = true

/-! ### The merge (42_packer.md section 2) -/

/-- 42_packer.md R129 (a), which the spec derives from R128: what SB holds after a MERGE that does not fault, bit by bit
(`so` zeros, the field, `ss` zeros, the high bits of the spill byte), and the frame: OB, STATUS and SB apart, nothing
changes. -/
def Obligations.MergeRepositionsTheSourceBits : Prop :=
  ∀ (outoff srcoff n : Nat) (s : State), outoff < 128 → srcoff < 128 → 1 ≤ n → n ≤ 15 →
    outoff / 8 + mergedCount outoff srcoff n ≤ 16 →
    ∃ t, exec (.merge outoff srcoff n) s = .next t ∧
      t = { s with sb := t.sb, ob := t.ob, status := t.status } ∧
      (outoff % 8 ≠ 0 → ∀ k, k < 8 * n + 8 → bufBit t.sb k =
        if k < outoff % 8 then false
        else if k < outoff % 8 + (8 * n - srcoff % 8) then bufBit s.sb (k - outoff % 8 + srcoff % 8)
        else if k < outoff % 8 + 8 * n then false
        else bufBit s.sb (k - outoff % 8)) ∧
      (outoff % 8 = 0 →
        (∀ k, k < 8 * n → bufBit t.sb k =
          if k < 8 * n - srcoff % 8 then bufBit s.sb (k + srcoff % 8) else false) ∧
        bufGet t.sb n = bufGet s.sb n) ∧
      ∀ j, n < j → j < 16 → bufGet t.sb j = bufGet s.sb j

/-- 42_packer.md R128 step 4 with R129 (b): OB bytes `bo` to `bo + n2 - 1` are ORed with the first `n2` bytes of the
shifted SB, every other byte of OB reads as before; and with a clean spill byte, or without a spill, OB buffer bits
`outoff` to `outoff + 8n - ss - 1` are ORed with the field and no other bit of OB changes. -/
def Obligations.MergeOrsTheFieldIntoTheOutput : Prop :=
  ∀ (outoff srcoff n : Nat) (s : State), outoff < 128 → srcoff < 128 → 1 ≤ n → n ≤ 15 →
    outoff / 8 + mergedCount outoff srcoff n ≤ 16 →
    ∃ t, exec (.merge outoff srcoff n) s = .next t ∧
      (∀ j, j < 16 → bufGet t.ob j =
        if outoff / 8 ≤ j ∧ j < outoff / 8 + mergedCount outoff srcoff n then
          bufGet s.ob j ||| bufGet t.sb (j - outoff / 8)
        else bufGet s.ob j) ∧
      (outoff % 8 ≤ srcoff % 8 ∨ bufGet s.sb n >>> (outoff % 8) = 0 →
        ∀ k, k < 128 → bufBit t.ob k =
          (bufBit s.ob k ||
            (decide (outoff ≤ k ∧ k < outoff + (8 * n - srcoff % 8)) &&
              bufBit s.sb (k - outoff + srcoff % 8))))

/-- 42_packer.md R129 (c), R132: with `so > ss` the spill byte's old bits, shifted right by `so`, are ORed into OB byte
`bo + n` beyond the field. -/
def Obligations.MergeOrsTheSpillByteBeyondTheField : Prop :=
  ∀ (outoff srcoff n : Nat) (s : State), outoff < 128 → srcoff < 128 → 1 ≤ n → n ≤ 15 →
    outoff / 8 + n + 1 ≤ 16 → srcoff % 8 < outoff % 8 →
    ∃ t, exec (.merge outoff srcoff n) s = .next t ∧
      ∀ k, 8 * (outoff / 8 + n) + outoff % 8 ≤ k → k < 8 * (outoff / 8 + n) + 8 →
        bufBit t.ob k = (bufBit s.ob k || (bufGet s.sb n >>> (outoff % 8)).getLsbD (7 - k % 8))

/-- 42_packer.md R130: a MERGE that completes sets OVERLAP exactly when some old OB byte and the final SB byte merged
into it have a 1 in the same bit; otherwise STATUS is as before. -/
def Obligations.MergeSetsOverlapWhenAOneMeetsAOne : Prop :=
  ∀ (outoff srcoff n : Nat) (s : State), 1 ≤ n → outoff / 8 + mergedCount outoff srcoff n ≤ 16 →
    ∃ t, exec (.merge outoff srcoff n) s = .next t ∧
      ((∃ i, i < mergedCount outoff srcoff n ∧ bufGet s.ob (outoff / 8 + i) &&& bufGet t.sb i ≠ 0) →
        t.status = s.status ||| 0x40) ∧
      ((∀ i, i < mergedCount outoff srcoff n → bufGet s.ob (outoff / 8 + i) &&& bufGet t.sb i = 0) →
        t.status = s.status)

/-- 60_exceptions.md R163: CAPACITY when `bo + n2 > 16`, before anything is touched; SPAN cannot raise it. -/
def Obligations.MergePastTheOutputRaisesCapacityOnly : Prop :=
  (∀ (outoff srcoff n : Nat) (s : State), 1 ≤ n → 16 < outoff / 8 + mergedCount outoff srcoff n →
    exec (.merge outoff srcoff n) s = .next { s with status := s.status ||| 0x04 }) ∧
  ∀ (len off : Nat) (s t : State), exec (.span len off) s = .next t → flagOf .capacity t = flagOf .capacity s

/-- 42_packer.md R141, R130: because each MERGE only ORs, two merges into one OB give the same OB in either order, SB
being loaded anew before each. -/
def Obligations.MergesIntoOneOutputCommute : Prop :=
  ∀ (o1 c1 n1 o2 c2 n2 : Nat) (b1 b2 : Buffer) (s : State), 1 ≤ n1 → 1 ≤ n2 →
    o1 / 8 + mergedCount o1 c1 n1 ≤ 16 → o2 / 8 + mergedCount o2 c2 n2 ≤ 16 →
    ∃ t u t' u',
      exec (.merge o1 c1 n1) { s with sb := b1 } = .next t ∧
      exec (.merge o2 c2 n2) { t with sb := b2 } = .next u ∧
      exec (.merge o2 c2 n2) { s with sb := b2 } = .next t' ∧
      exec (.merge o1 c1 n1) { t' with sb := b1 } = .next u' ∧ u.ob = u'.ob

/-! ### Span and clears (42_packer.md sections 3 and 4) -/

/-- 42_packer.md R134: OPERAND for `len = 0`; for `len >= 1` OMU's formula into RESULT and nothing else changes; the
result is 1 to 33, is the count of bytes that buffer bits `off` to `off + len - 1` lie in, and depends on `off & 7`
only. -/
def Obligations.SpanFollowsTheFormula : Prop :=
  ∀ (len off : Nat) (s : State), len < 256 → off < 128 →
    decode (BitVec.ofNat 32 (0x33000000 + len * 256 + off)) = .ok (.span len off) ∧
    (len = 0 → exec (.span len off) s = .next { s with status := s.status ||| 0x02 }) ∧
    (1 ≤ len →
      ∃ t, exec (.span len off) s = .next t ∧
        t = { s with result := BitVec.ofNat 32 ((len + off - 1) / 8 + 1 - off / 8) } ∧
        exec (.span len (off % 8)) s = .next t ∧
        1 ≤ t.result.toNat ∧ t.result.toNat ≤ 33 ∧
        ∀ j, (∃ k, off ≤ k ∧ k < off + len ∧ k / 8 = j) ↔ off / 8 ≤ j ∧ j < off / 8 + t.result.toNat)

/-- 42_packer.md R136, which the spec derives from R128 and R134: SPAN of the field a MERGE places is the number of
bytes the MERGE merges, and MERGE does not raise CAPACITY exactly when `floor(outoff / 8) + RESULT <= 16`. -/
def Obligations.SpanEqualsTheBytesMergeWrites : Prop :=
  ∀ (outoff srcoff n : Nat) (s : State), outoff < 128 → srcoff < 128 → 1 ≤ n → n ≤ 15 →
    ∃ t, exec (.span (8 * n - srcoff % 8) outoff) s = .next t ∧
      t.result.toNat = n + (if outoff % 8 > srcoff % 8 then 1 else 0) ∧
      (outoff / 8 + t.result.toNat ≤ 16 → ∃ u, exec (.merge outoff srcoff n) s = .next u ∧
        flagOf .capacity u = flagOf .capacity s ∧
        ∀ j, j < 16 → bufGet u.ob j =
          if outoff / 8 ≤ j ∧ j < outoff / 8 + t.result.toNat then
            bufGet s.ob j ||| bufGet u.sb (j - outoff / 8)
          else bufGet s.ob j) ∧
      (16 < outoff / 8 + t.result.toNat →
        exec (.merge outoff srcoff n) s = .next { s with status := s.status ||| 0x04 })

/-- 42_packer.md R137, R138: SBCLR makes all sixteen bytes of SB 0, OBCLR all sixteen of OB, and nothing else changes;
SBCLR is the same as writing 0 to SB0, SB1, SB2 and SB3. -/
def Obligations.ClearsZeroTheirBufferOnly : Prop :=
  decode 0x34000000 = .ok .sbclr ∧ decode 0x35000000 = .ok .obclr ∧ ∀ s : State,
    (∃ t, exec .sbclr s = .next t ∧ t = { s with sb := t.sb } ∧ (∀ i, i < 16 → bufGet t.sb i = 0) ∧
      t.sb = bufPutWord (bufPutWord (bufPutWord (bufPutWord s.sb 0 0) 1 0) 2 0) 3 0) ∧
    ∃ t, exec .obclr s = .next t ∧ t = { s with ob := t.ob } ∧ ∀ i, i < 16 → bufGet t.ob i = 0

/-- 42_packer.md R139: the outcome of a packer command is a function of the command word, SB and OB alone. Two states
that agree on SB and OB get the same SB and OB, and the same flags are newly set. -/
def Obligations.PackerReadsOnlyItsBuffers : Prop :=
  ∀ (i : Instr) (s s' : State), isPacker i = true → s.sb = s'.sb → s.ob = s'.ob →
    ∃ t t' raised, exec i s = .next t ∧ exec i s' = .next t' ∧ t.sb = t'.sb ∧ t.ob = t'.ob ∧
      t.status = s.status ||| raised ∧ t'.status = s'.status ||| raised ∧
      (t.result = t'.result ∨ t.result = s.result ∧ t'.result = s'.result)

/-! ### The framer (43_framer.md) -/

/-- 43_framer.md R150, R156: a packet of exactly the declared size that SINK grants is committed whole, the cursor grows
by that size, the packet is gone; nothing else changes. That the presented packets are a queue is the model's choice (log 6). -/
def Obligations.CopyCommitsTheWholePacket : Prop :=
  ∀ (s : State) (packet : Packet) (rest : List Packet), s.held = false → s.packets = packet :: rest →
    packet.flatten.length = packetSize s.codec s.hs → sinkGrants s.sink (packetSize s.codec s.hs) = true →
    ∃ t, exec .copy s = .next t ∧ t = { s with packets := rest, sink := t.sink } ∧
      t.sink.bytes = s.sink.bytes ++ packet.flatten ∧
      sinkCursor t.sink = sinkCursor s.sink + packetSize s.codec s.hs

/-- 43_framer.md R151: fewer bytes than declared sets FRAMING at once, whatever SINK would grant; the packet is consumed
and the sink is as it was. -/
def Obligations.ShortPacketRaisesFraming : Prop :=
  ∀ (s : State) (packet : Packet) (rest : List Packet), s.held = false → s.packets = packet :: rest →
    packet.flatten.length < packetSize s.codec s.hs →
    exec .copy s = .next { s with packets := rest, status := s.status ||| 0x10 }

/-- 43_framer.md R152: more bytes than declared sets OVERLONG at once; the packet is consumed and the sink is as it
was. -/
def Obligations.LongPacketRaisesOverlong : Prop :=
  ∀ (s : State) (packet : Packet) (rest : List Packet), s.held = false → s.packets = packet :: rest →
    packetSize s.codec s.hs < packet.flatten.length →
    exec .copy s = .next { s with packets := rest, status := s.status ||| 0x20 }

/-- 43_framer.md R154: only the concatenation of the segments matters. That a COPY SINK does not grant answers a next
state, the hold, with its packet still presented, is the model's choice (logs 1, 6; 93_implementation_defined.md U10 says
"stuck"). -/
def Obligations.SegmentationIsInvisible : Prop :=
  ∀ (s : State) (p q : Packet) (rest : List Packet), p.flatten = q.flatten →
    ∃ t u, exec .copy { s with packets := p :: rest } = .next t ∧
      exec .copy { s with packets := q :: rest } = .next u ∧
      (t = u ∨ t.held = true ∧ u = { t with packets := q :: rest })

/-- 43_framer.md R155: a COPY of the right length that SINK does not grant is held and has changed nothing; the CMD
write has no response. That this is a next state with a hold in it is the model's choice (log 1;
93_implementation_defined.md U10 says "stuck", 95_test_vectors.md C7 gives no state after it). -/
def Obligations.CopyWithoutRoomIsHeld : Prop :=
  ∀ (s : State) (packet : Packet) (rest : List Packet) (moves : List Input), HostWriteNext s 0x00 0x40000000 moves →
    s.packets = packet :: rest → packet.flatten.length = packetSize s.codec s.hs →
    sinkGrants s.sink (packetSize s.codec s.hs) = false →
    step s = .next { s with inputs := moves, held := true, response := none }

/-- 43_framer.md R155, 70_reset_and_hazards.md R190: while SINK does not grant, and no other agent than HOST moves, a
held COPY is a hang: the state does not change and HOST's further accesses are not taken. That a hang is a step that
answers the same state is the model's choice (log 1; 93_implementation_defined.md U10 says "stuck"). -/
def Obligations.HeldCopyWithoutGrantHangs : Prop :=
  ∀ (s : State) (n : Nat), s.held = true → sinkGrants s.sink (packetSize s.codec s.hs) = false →
    (∀ e ∈ s.inputs, fromHost e = true) → Sys2Proof.core.run n s = .next s

/-- 43_framer.md R155, 20_memory.md R58: when SINK makes `S` bytes available the held COPY completes, past HOST's
waiting accesses, with reserve, copy and commit in one step, and its CMD write is answered OKAY. That it completes in
the very next step, before any other move of the list, is the model's choice (log 1), that it runs again whole in that
step is deduced (log 11), and that SINK grants every size up to its room is the model's choice (log 5). -/
def Obligations.GrantEndsTheHold : Prop :=
  ∀ (s : State) (packet : Packet) (rest : List Packet) (waiting moves : List Input) (r : Nat),
    s.held = true → sinkGrants s.sink (packetSize s.codec s.hs) = false →
    s.packets = packet :: rest → packet.flatten.length = packetSize s.codec s.hs →
    (∀ e ∈ waiting, fromHost e = true) → s.inputs = waiting ++ .sinkRoom (some r) :: moves →
    packetSize s.codec s.hs ≤ r →
    ∃ t, Sys2Proof.core.run 2 s = .next t ∧
      t = { s with
        packets := rest, held := false, sink := t.sink, response := some (.write .okay),
        inputs := waiting ++ moves } ∧
      t.sink.bytes = s.sink.bytes ++ packet.flatten

/-- 70_reset_and_hazards.md R187: "A COPY with no packet presented is outside this spec's rules: a model gives it no
step"; every other command, and every COPY with a packet, answers a next state. A COPY that SINK does not grant has not
completed (00_scope.md R14; 43_framer.md R155): that its hold is a next state is the model's choice (log 1;
93_implementation_defined.md U10 says "stuck"). -/
def Obligations.OnlyCopyWithoutPacketStops : Prop :=
  ∀ (i : Instr) (s : State),
    (exec i s = .fault .copyWithoutPacket ↔ i = .copy ∧ s.packets = []) ∧
    ((∃ t, exec i s = .next t) ↔ ¬(i = .copy ∧ s.packets = []))

/-! ### The register window (20_memory.md, 10_state.md) -/

/-- 10_state.md R34, 20_memory.md R54, R55, R59: what an OKAY read of each register returns; a read changes nothing but
the response. -/
def Obligations.ReadsReturnTheRegisters : Prop :=
  ∀ (s : State) (rest : List Input) (off : Nat) (v : Word), HostReadNext s off rest →
    (off = 0x00 ∧ v = 0 ∨
      off = 0x04 ∧ v = s.status.setWidth 32 ∨
      off = 0x08 ∧ v = s.result ∨
      off = 0x0C ∧ v = s.ctr ∨
      (∃ k : Fin 4, off = 0x10 + 4 * k ∧ v = s.rb[k]) ∨
      off = 0x20 ∧ v = s.hs.b0 ++ s.hs.b1 ++ s.hs.b2 ++ (0 : Byte) ∨
      off = 0x24 ∧ v = 0xF83D0B08 ∨
      (∃ k : Fin 4, off = 0x40 + 4 * k ∧ ∀ j, j < 4 → v.extractLsb' (24 - 8 * j) 8 = bufGet s.sb (4 * k + j)) ∨
      (∃ k : Fin 4, off = 0x50 + 4 * k ∧ ∀ j, j < 4 → v.extractLsb' (24 - 8 * j) 8 = bufGet s.ob (4 * k + j))) →
    step s = .next { s with inputs := rest, response := some (.read .okay v) }

/-- 20_memory.md R56, R59: an OKAY write to RBk, SBk or OBk replaces all 32 bits, byte `4k + j` of a buffer getting bits
`[31 - 8j : 24 - 8j]`; nothing else changes. -/
def Obligations.WritesReplaceAllThirtyTwoBits : Prop :=
  ∀ (s : State) (rest : List Input) (k : Fin 4) (v : Word),
    (HostWriteNext s (0x10 + 4 * k) v rest →
      step s = .next { s with inputs := rest, response := some (.write .okay), rb := s.rb.set k v }) ∧
    (HostWriteNext s (0x40 + 4 * k) v rest →
      ∃ t, step s = .next t ∧
        t = { s with inputs := rest, response := some (.write .okay), sb := t.sb } ∧
        ∀ i, i < 16 → bufGet t.sb i =
          if i / 4 = k.val then v.extractLsb' (24 - 8 * (i % 4)) 8 else bufGet s.sb i) ∧
    (HostWriteNext s (0x50 + 4 * k) v rest →
      ∃ t, step s = .next t ∧
        t = { s with inputs := rest, response := some (.write .okay), ob := t.ob } ∧
        ∀ i, i < 16 → bufGet t.ob i =
          if i / 4 = k.val then v.extractLsb' (24 - 8 * (i % 4)) 8 else bufGet s.ob i)

/-- 20_memory.md R63: a read after a write to the same RB, SB or OB register, nothing between them, returns the written
value. -/
def Obligations.ReadAfterWriteReturnsTheValue : Prop :=
  ∀ (s : State) (rest : List Input) (off : Nat) (v : Word),
    (∃ k, k < 4 ∧ (off = 0x10 + 4 * k ∨ off = 0x40 + 4 * k ∨ off = 0x50 + 4 * k)) →
    s.held = false →
    s.inputs = .hostWrite (base s + off) .w32 v :: .hostRead (base s + off) .w32 :: rest →
    ∃ t, Sys2Proof.core.run 2 s = .next t ∧ t.response = some (.read .okay v) ∧ t.inputs = rest

/-- 20_memory.md R52, R53, and of R54 its ERROR part: an access of another width, at a misaligned or a reserved offset,
and a write to RESULT, CTR or CONST, is answered ERROR (a read with value 0) and changes nothing else: no STATUS bit, no
command. That a wide access that starts in the window and runs past its end is such an access is deduced (log 13). -/
def Obligations.BadAccessesAnswerErrorOnly : Prop :=
  ∀ (s : State) (rest : List Input) (off : Nat) (width : Width) (v : Word), s.held = false → off < 256 →
    ((width ≠ .w32 ∨ off % 4 ≠ 0 ∨ (0x28 ≤ off ∧ off < 0x40) ∨ 0x60 ≤ off) →
      (s.inputs = .hostRead (base s + off) width :: rest →
        step s = .next { s with inputs := rest, response := some (.read .error 0) }) ∧
      (s.inputs = .hostWrite (base s + off) width v :: rest →
        step s = .next { s with inputs := rest, response := some (.write .error) })) ∧
    ((off = 0x08 ∨ off = 0x0C ∨ off = 0x24) → s.inputs = .hostWrite (base s + off) width v :: rest →
      step s = .next { s with inputs := rest, response := some (.write .error) })

/-- 20_memory.md R51, R61: an access below BASE or at BASE + 256 and above is not addressed to BSPF: nothing changes but
that the move is gone. BASE is a multiple of 256. That the last response stays is the model's choice (log 3). -/
def Obligations.AccessesOutsideTheWindowAreNotSeen : Prop :=
  ∀ (s : State) (rest : List Input) (addr : Nat) (width : Width) (v : Word), base s % 256 = 0 ∧
    (s.held = false → (addr < base s ∨ base s + 256 ≤ addr) →
      (s.inputs = .hostRead addr width :: rest → step s = .next { s with inputs := rest }) ∧
      (s.inputs = .hostWrite addr width v :: rest → step s = .next { s with inputs := rest }))

/-! ### Faults and flags (60_exceptions.md) -/

/-- 60_exceptions.md R173: a write of STATUS clears the flags whose written bit is 1 and ignores bits 31:8. -/
def Obligations.StatusWriteClearsTheWrittenFlags : Prop :=
  ∀ (s : State) (v : Word) (rest : List Input), HostWriteNext s 0x04 v rest →
    ∃ t, step s = .next t ∧
      t = { s with inputs := rest, status := t.status, response := some (.write .okay) } ∧
      ∀ b, b < 8 → t.status.getLsbD b = (s.status.getLsbD b && !v.getLsbD b)

/-- 60_exceptions.md R170: `fault = 1` exactly when some flag is set; after a write of 1 to all eight it is 0. -/
def Obligations.FaultOutputIsTheOrOfTheFlags : Prop :=
  (∀ s : State, faultOutput s = true ↔ ∃ f : Flag, flagOf f s = true) ∧
  ∀ (s : State) (v : Word) (rest : List Input), HostWriteNext s 0x04 v rest → v.setWidth 8 = (0xFF : BitVec 8) →
    ∃ t, step s = .next t ∧ faultOutput t = false

/-- 60_exceptions.md R160, R171: a command that raises a fault sets that one flag and changes no other state; the one
exception is a COPY's packet, the front of the model's queue (log 6). So one command raises at most one fault. -/
def Obligations.FaultsArePrecise : Prop :=
  ∀ (i : Instr) (s t : State) (f : Flag), s.held = false → exec i s = .next t → isFault f = true →
    flagOf f s = false → flagOf f t = true →
    t = { s with status := s.status ||| flagMask f, packets := t.packets } ∧
      (i ≠ .copy → t.packets = s.packets) ∧ (i = .copy → t.packets = s.packets.tail)

/-- 60_exceptions.md R168: what never faults: KRESET, HSIZE, PSIZE, SBCLR, OBCLR, and the shifts with `shift = 0`, leave
STATUS as it is and complete. -/
def Obligations.SomeCommandsNeverFault : Prop :=
  ∀ (s : State) (size : Nat) (i : Instr),
    i ∈ [Instr.kreset, .hsize, .psize, .sbclr, .obclr, .align0 size 0, .posoff size 0] →
    ∃ t, exec i s = .next t ∧ t.status = s.status ∧ t.packets = s.packets ∧ t.sink = s.sink

/-- 10_state.md R27, 60_exceptions.md R172, R173: a set flag stays set through every step but HOST's write of 1 to it
and reset. -/
def Obligations.FlagsAreSticky : Prop :=
  ∀ (s t : State) (f : Flag), step s = .next t → flagOf f s = true → flagOf f t = false →
    ∃ e rest, MoveNext s e rest ∧
      (e = .reset ∨ ∃ v : Word, e = .hostWrite (base s + 0x04) .w32 v ∧ v.getLsbD (flagIndex f) = true)

/-! ### Reset and whole-machine rules -/

/-- 10_state.md R36, R38: after reset STATUS, RESULT and CTR are 0. -/
def Obligations.ResetLeavesStatusResultAndCounterZero : Prop :=
  State.reset.status = 0 ∧ State.reset.result = 0 ∧ State.reset.ctr = 0

/-- 70_reset_and_hazards.md R180: the reset event, in every state, a hold included: CTR, STATUS and RESULT are 0, no
command is in progress and nothing is committed, `fault` is 0; SINK, the packets and XFORM are not reset by it. The codec
does not change while an instance lives (10_state.md R32). What RB,
HS, SB and OB hold afterwards is not said. The model's choices, not R180's words: no response is kept (log 3; that the
abandoned CMD write is never answered is deduced, log 12), HOST's waiting accesses are taken later (log 12), an abandoned
COPY's packet stays presented (log 6), what XFORM saw stays (log 7), and BASE does not change (log 4). -/
def Obligations.ResetEventAbandonsTheHold : Prop :=
  ∀ (s : State) (rest : List Input), MoveNext s .reset rest →
    ∃ t, step s = .next t ∧ t.ctr = 0 ∧ t.status = 0 ∧ t.result = 0 ∧ t.held = false ∧ t.response = none ∧
      faultOutput t = false ∧ t.sink = s.sink ∧ t.packets = s.packets ∧ t.xformView = s.xformView ∧
      t.codec = s.codec ∧ t.page = s.page ∧ t.inputs = rest

/-- 43_framer.md R155 as an invariant every step keeps: a held COPY has passed its length tests, its packet is still
presented, and its CMD write has no response. That the packet waits at the front of a queue is the model's choice
(log 6), and so is the field that keeps the response (log 3). -/
def Obligations.HoldInvariantIsKept : Prop :=
  ∀ s t : State, HeldCopyMatches s ∧ HeldUnanswered s → step s = .next t → HeldCopyMatches t ∧ HeldUnanswered t

/-- The hold invariant holds after reset (70_reset_and_hazards.md R180: no command in progress). -/
def Obligations.HoldInvariantHoldsAtReset : Prop :=
  HeldCopyMatches State.reset ∧ HeldUnanswered State.reset

/-- 10_state.md R30, 43_framer.md R150, R157: in every step the sink's bytes stay and at most one presented packet is
appended, whole, as it leaves the front of the presented packets, and it has the declared size. That the presented
packets are a queue is the model's choice (log 6). -/
def Obligations.OnlyWholePacketsReachTheSink : Prop :=
  ∀ s t : State, step s = .next t → t.sink.bytes ≠ s.sink.bytes →
    ∃ packet rest, s.packets = packet :: rest ∧ t.packets = rest ∧
      packet.flatten.length = packetSize s.codec s.hs ∧ t.sink.bytes = s.sink.bytes ++ packet.flatten

/-- 10_state.md R23, R24, 20_memory.md R57: RB[k] changes only by HOST's write of RBk or reset, HS only by HOST's write of
HDR or reset. -/
def Obligations.OnlyHostAndResetWriteRingAndHeader : Prop :=
  ∀ s t : State, step s = .next t →
    (∀ k : Fin 4, t.rb[k] ≠ s.rb[k] → ∃ e rest, MoveNext s e rest ∧
      (e = .reset ∨ ∃ v, e = .hostWrite (base s + 0x10 + 4 * k) .w32 v)) ∧
    (t.hs ≠ s.hs → ∃ e rest, MoveNext s e rest ∧
      (e = .reset ∨ ∃ v, e = .hostWrite (base s + 0x20) .w32 v))

/-- 10_state.md R28: RESULT changes only by SPAN, HSIZE, PSIZE or CSIZE, when it completes without a fault, or by
reset. -/
def Obligations.OnlySizesAndSpanWriteResult : Prop :=
  ∀ s t : State, step s = .next t → t.result ≠ s.result →
    ∃ e rest, MoveNext s e rest ∧
      (e = .reset ∨ ∃ w i, e = .hostWrite (base s) .w32 w ∧ decode w = .ok i ∧ t.status = s.status ∧
        (i = .hsize ∨ i = .psize ∨ (∃ d, i = .csize d) ∨ ∃ len off, i = .span len off))

/-- 10_state.md R25, R26, R32: the codec does not change while an instance lives; SB changes only by HOST's write of an
SBk, by ALIGN0, POSOFF, MERGE, SBCLR or by reset, OB only by HOST's write of an OBk, by MERGE, OBCLR or by reset. That no
step changes BASE is the model's choice (log 4). -/
def Obligations.ConfigurationAndBuffersAreHosts : Prop :=
  ∀ s t : State, step s = .next t →
    t.codec = s.codec ∧ t.page = s.page ∧
    (t.sb ≠ s.sb → ∃ e rest, MoveNext s e rest ∧
      (e = .reset ∨ (∃ (k : Fin 4) (v : Word), e = .hostWrite (base s + 0x40 + 4 * k) .w32 v) ∨
        ∃ w i, e = .hostWrite (base s) .w32 w ∧ decode w = .ok i ∧
          (i = .sbclr ∨ (∃ size shift, i = .align0 size shift) ∨ (∃ size shift, i = .posoff size shift) ∨
            ∃ outoff srcoff n, i = .merge outoff srcoff n))) ∧
    (t.ob ≠ s.ob → ∃ e rest, MoveNext s e rest ∧
      (e = .reset ∨ (∃ (k : Fin 4) (v : Word), e = .hostWrite (base s + 0x50 + 4 * k) .w32 v) ∨
        ∃ w i, e = .hostWrite (base s) .w32 w ∧ decode w = .ok i ∧
          (i = .obclr ∨ ∃ outoff srcoff n, i = .merge outoff srcoff n)))

/-- 70_reset_and_hazards.md R193, R195, R197: with `SinkFair` a run is over after at most two steps a move and one for a
COPY already held, or it comes to a COPY with no packet (R187). The order in which the moves are taken, and that a step
takes one, is the model's choice (log 1), as is SINK's room (log 5); that a held COPY runs again whole when it is
granted is deduced (log 11); that a reset ends a hold as a grant does, and a run with it, is the model's choice
(logs 15, 16). -/
def Obligations.RunWithAFairSinkEnds : Prop :=
  ∀ s : State, SinkFair s → ∃ n, n ≤ 2 * s.inputs.length + 1 ∧
    ((∃ t, Sys2Proof.core.run n s = .next t ∧ RunOver t) ∨
      Sys2Proof.core.run n s = .fault .copyWithoutPacket)
end

