-- ==== Sys2Proof/Laws/State.lean ====
section
/-! SUPPORT. One lemma per field of State for each named update, so that no proof unfolds a record update. -/

namespace Sys2Proof.Laws

open Sys2Proof.Machine

@[simp] theorem setFlag_ctr (f : Flag) (s : State) : (setFlag f s).ctr = s.ctr := rfl
@[simp] theorem setFlag_rb (f : Flag) (s : State) : (setFlag f s).rb = s.rb := rfl
@[simp] theorem setFlag_hs (f : Flag) (s : State) : (setFlag f s).hs = s.hs := rfl
@[simp] theorem setFlag_sb (f : Flag) (s : State) : (setFlag f s).sb = s.sb := rfl
@[simp] theorem setFlag_ob (f : Flag) (s : State) : (setFlag f s).ob = s.ob := rfl
@[simp] theorem setFlag_status (f : Flag) (s : State) : (setFlag f s).status = s.status ||| flagMask f := rfl
@[simp] theorem setFlag_result (f : Flag) (s : State) : (setFlag f s).result = s.result := rfl
@[simp] theorem setFlag_held (f : Flag) (s : State) : (setFlag f s).held = s.held := rfl
@[simp] theorem setFlag_response (f : Flag) (s : State) : (setFlag f s).response = s.response := rfl
@[simp] theorem setFlag_page (f : Flag) (s : State) : (setFlag f s).page = s.page := rfl
@[simp] theorem setFlag_codec (f : Flag) (s : State) : (setFlag f s).codec = s.codec := rfl
@[simp] theorem setFlag_sink (f : Flag) (s : State) : (setFlag f s).sink = s.sink := rfl
@[simp] theorem setFlag_packets (f : Flag) (s : State) : (setFlag f s).packets = s.packets := rfl
@[simp] theorem setFlag_xformView (f : Flag) (s : State) : (setFlag f s).xformView = s.xformView := rfl
@[simp] theorem setFlag_inputs (f : Flag) (s : State) : (setFlag f s).inputs = s.inputs := rfl
@[simp] theorem setFlag_resets (f : Flag) (s : State) : (setFlag f s).resets = s.resets := rfl

@[simp] theorem clearFlags_ctr (v : Word) (s : State) : (clearFlags v s).ctr = s.ctr := rfl
@[simp] theorem clearFlags_rb (v : Word) (s : State) : (clearFlags v s).rb = s.rb := rfl
@[simp] theorem clearFlags_hs (v : Word) (s : State) : (clearFlags v s).hs = s.hs := rfl
@[simp] theorem clearFlags_sb (v : Word) (s : State) : (clearFlags v s).sb = s.sb := rfl
@[simp] theorem clearFlags_ob (v : Word) (s : State) : (clearFlags v s).ob = s.ob := rfl
@[simp] theorem clearFlags_status (v : Word) (s : State) : (clearFlags v s).status = s.status &&& ~~~(v.setWidth 8) := rfl
@[simp] theorem clearFlags_result (v : Word) (s : State) : (clearFlags v s).result = s.result := rfl
@[simp] theorem clearFlags_held (v : Word) (s : State) : (clearFlags v s).held = s.held := rfl
@[simp] theorem clearFlags_response (v : Word) (s : State) : (clearFlags v s).response = s.response := rfl
@[simp] theorem clearFlags_page (v : Word) (s : State) : (clearFlags v s).page = s.page := rfl
@[simp] theorem clearFlags_codec (v : Word) (s : State) : (clearFlags v s).codec = s.codec := rfl
@[simp] theorem clearFlags_sink (v : Word) (s : State) : (clearFlags v s).sink = s.sink := rfl
@[simp] theorem clearFlags_packets (v : Word) (s : State) : (clearFlags v s).packets = s.packets := rfl
@[simp] theorem clearFlags_xformView (v : Word) (s : State) : (clearFlags v s).xformView = s.xformView := rfl
@[simp] theorem clearFlags_inputs (v : Word) (s : State) : (clearFlags v s).inputs = s.inputs := rfl
@[simp] theorem clearFlags_resets (v : Word) (s : State) : (clearFlags v s).resets = s.resets := rfl

@[simp] theorem setResult_ctr (v : Nat) (s : State) : (setResult v s).ctr = s.ctr := rfl
@[simp] theorem setResult_rb (v : Nat) (s : State) : (setResult v s).rb = s.rb := rfl
@[simp] theorem setResult_hs (v : Nat) (s : State) : (setResult v s).hs = s.hs := rfl
@[simp] theorem setResult_sb (v : Nat) (s : State) : (setResult v s).sb = s.sb := rfl
@[simp] theorem setResult_ob (v : Nat) (s : State) : (setResult v s).ob = s.ob := rfl
@[simp] theorem setResult_status (v : Nat) (s : State) : (setResult v s).status = s.status := rfl
@[simp] theorem setResult_result (v : Nat) (s : State) : (setResult v s).result = BitVec.ofNat 32 v := rfl
@[simp] theorem setResult_held (v : Nat) (s : State) : (setResult v s).held = s.held := rfl
@[simp] theorem setResult_response (v : Nat) (s : State) : (setResult v s).response = s.response := rfl
@[simp] theorem setResult_page (v : Nat) (s : State) : (setResult v s).page = s.page := rfl
@[simp] theorem setResult_codec (v : Nat) (s : State) : (setResult v s).codec = s.codec := rfl
@[simp] theorem setResult_sink (v : Nat) (s : State) : (setResult v s).sink = s.sink := rfl
@[simp] theorem setResult_packets (v : Nat) (s : State) : (setResult v s).packets = s.packets := rfl
@[simp] theorem setResult_xformView (v : Nat) (s : State) : (setResult v s).xformView = s.xformView := rfl
@[simp] theorem setResult_inputs (v : Nat) (s : State) : (setResult v s).inputs = s.inputs := rfl
@[simp] theorem setResult_resets (v : Nat) (s : State) : (setResult v s).resets = s.resets := rfl

@[simp] theorem loadHeader_ctr (v : Word) (s : State) : (loadHeader v s).ctr = s.ctr := rfl
@[simp] theorem loadHeader_rb (v : Word) (s : State) : (loadHeader v s).rb = s.rb := rfl
@[simp] theorem loadHeader_hs (v : Word) (s : State) : (loadHeader v s).hs = ⟨wordByte v 0, wordByte v 1, wordByte v 2⟩ := rfl
@[simp] theorem loadHeader_sb (v : Word) (s : State) : (loadHeader v s).sb = s.sb := rfl
@[simp] theorem loadHeader_ob (v : Word) (s : State) : (loadHeader v s).ob = s.ob := rfl
@[simp] theorem loadHeader_status (v : Word) (s : State) : (loadHeader v s).status = s.status := rfl
@[simp] theorem loadHeader_result (v : Word) (s : State) : (loadHeader v s).result = s.result := rfl
@[simp] theorem loadHeader_held (v : Word) (s : State) : (loadHeader v s).held = s.held := rfl
@[simp] theorem loadHeader_response (v : Word) (s : State) : (loadHeader v s).response = s.response := rfl
@[simp] theorem loadHeader_page (v : Word) (s : State) : (loadHeader v s).page = s.page := rfl
@[simp] theorem loadHeader_codec (v : Word) (s : State) : (loadHeader v s).codec = s.codec := rfl
@[simp] theorem loadHeader_sink (v : Word) (s : State) : (loadHeader v s).sink = s.sink := rfl
@[simp] theorem loadHeader_packets (v : Word) (s : State) : (loadHeader v s).packets = s.packets := rfl
@[simp] theorem loadHeader_xformView (v : Word) (s : State) : (loadHeader v s).xformView = s.xformView := rfl
@[simp] theorem loadHeader_inputs (v : Word) (s : State) : (loadHeader v s).inputs = s.inputs := rfl
@[simp] theorem loadHeader_resets (v : Word) (s : State) : (loadHeader v s).resets = s.resets := rfl

@[simp] theorem xformRead_ctr (s : State) : (xformRead s).ctr = s.ctr := rfl
@[simp] theorem xformRead_rb (s : State) : (xformRead s).rb = s.rb := rfl
@[simp] theorem xformRead_hs (s : State) : (xformRead s).hs = s.hs := rfl
@[simp] theorem xformRead_sb (s : State) : (xformRead s).sb = s.sb := rfl
@[simp] theorem xformRead_ob (s : State) : (xformRead s).ob = s.ob := rfl
@[simp] theorem xformRead_status (s : State) : (xformRead s).status = s.status := rfl
@[simp] theorem xformRead_result (s : State) : (xformRead s).result = s.result := rfl
@[simp] theorem xformRead_held (s : State) : (xformRead s).held = s.held := rfl
@[simp] theorem xformRead_response (s : State) : (xformRead s).response = s.response := rfl
@[simp] theorem xformRead_page (s : State) : (xformRead s).page = s.page := rfl
@[simp] theorem xformRead_codec (s : State) : (xformRead s).codec = s.codec := rfl
@[simp] theorem xformRead_sink (s : State) : (xformRead s).sink = s.sink := rfl
@[simp] theorem xformRead_packets (s : State) : (xformRead s).packets = s.packets := rfl
@[simp] theorem xformRead_xformView (s : State) : (xformRead s).xformView = some ⟨s.ctr, s.rb⟩ := rfl
@[simp] theorem xformRead_inputs (s : State) : (xformRead s).inputs = s.inputs := rfl
@[simp] theorem xformRead_resets (s : State) : (xformRead s).resets = s.resets := rfl

@[simp] theorem takePacket_ctr (rest : List Packet) (s : State) : (takePacket rest s).ctr = s.ctr := rfl
@[simp] theorem takePacket_rb (rest : List Packet) (s : State) : (takePacket rest s).rb = s.rb := rfl
@[simp] theorem takePacket_hs (rest : List Packet) (s : State) : (takePacket rest s).hs = s.hs := rfl
@[simp] theorem takePacket_sb (rest : List Packet) (s : State) : (takePacket rest s).sb = s.sb := rfl
@[simp] theorem takePacket_ob (rest : List Packet) (s : State) : (takePacket rest s).ob = s.ob := rfl
@[simp] theorem takePacket_status (rest : List Packet) (s : State) : (takePacket rest s).status = s.status := rfl
@[simp] theorem takePacket_result (rest : List Packet) (s : State) : (takePacket rest s).result = s.result := rfl
@[simp] theorem takePacket_held (rest : List Packet) (s : State) : (takePacket rest s).held = false := rfl
@[simp] theorem takePacket_response (rest : List Packet) (s : State) : (takePacket rest s).response = s.response := rfl
@[simp] theorem takePacket_page (rest : List Packet) (s : State) : (takePacket rest s).page = s.page := rfl
@[simp] theorem takePacket_codec (rest : List Packet) (s : State) : (takePacket rest s).codec = s.codec := rfl
@[simp] theorem takePacket_sink (rest : List Packet) (s : State) : (takePacket rest s).sink = s.sink := rfl
@[simp] theorem takePacket_packets (rest : List Packet) (s : State) : (takePacket rest s).packets = rest := rfl
@[simp] theorem takePacket_xformView (rest : List Packet) (s : State) : (takePacket rest s).xformView = s.xformView := rfl
@[simp] theorem takePacket_inputs (rest : List Packet) (s : State) : (takePacket rest s).inputs = s.inputs := rfl
@[simp] theorem takePacket_resets (rest : List Packet) (s : State) : (takePacket rest s).resets = s.resets := rfl

@[simp] theorem presentPacket_ctr (p : Packet) (s : State) : (presentPacket p s).ctr = s.ctr := rfl
@[simp] theorem presentPacket_rb (p : Packet) (s : State) : (presentPacket p s).rb = s.rb := rfl
@[simp] theorem presentPacket_hs (p : Packet) (s : State) : (presentPacket p s).hs = s.hs := rfl
@[simp] theorem presentPacket_sb (p : Packet) (s : State) : (presentPacket p s).sb = s.sb := rfl
@[simp] theorem presentPacket_ob (p : Packet) (s : State) : (presentPacket p s).ob = s.ob := rfl
@[simp] theorem presentPacket_status (p : Packet) (s : State) : (presentPacket p s).status = s.status := rfl
@[simp] theorem presentPacket_result (p : Packet) (s : State) : (presentPacket p s).result = s.result := rfl
@[simp] theorem presentPacket_held (p : Packet) (s : State) : (presentPacket p s).held = s.held := rfl
@[simp] theorem presentPacket_response (p : Packet) (s : State) : (presentPacket p s).response = s.response := rfl
@[simp] theorem presentPacket_page (p : Packet) (s : State) : (presentPacket p s).page = s.page := rfl
@[simp] theorem presentPacket_codec (p : Packet) (s : State) : (presentPacket p s).codec = s.codec := rfl
@[simp] theorem presentPacket_sink (p : Packet) (s : State) : (presentPacket p s).sink = s.sink := rfl
@[simp] theorem presentPacket_packets (p : Packet) (s : State) : (presentPacket p s).packets = s.packets ++ [p] := rfl
@[simp] theorem presentPacket_xformView (p : Packet) (s : State) : (presentPacket p s).xformView = s.xformView := rfl
@[simp] theorem presentPacket_inputs (p : Packet) (s : State) : (presentPacket p s).inputs = s.inputs := rfl
@[simp] theorem presentPacket_resets (p : Packet) (s : State) : (presentPacket p s).resets = s.resets := rfl

@[simp] theorem setSinkRoom_ctr (r : Option Nat) (s : State) : (setSinkRoom r s).ctr = s.ctr := rfl
@[simp] theorem setSinkRoom_rb (r : Option Nat) (s : State) : (setSinkRoom r s).rb = s.rb := rfl
@[simp] theorem setSinkRoom_hs (r : Option Nat) (s : State) : (setSinkRoom r s).hs = s.hs := rfl
@[simp] theorem setSinkRoom_sb (r : Option Nat) (s : State) : (setSinkRoom r s).sb = s.sb := rfl
@[simp] theorem setSinkRoom_ob (r : Option Nat) (s : State) : (setSinkRoom r s).ob = s.ob := rfl
@[simp] theorem setSinkRoom_status (r : Option Nat) (s : State) : (setSinkRoom r s).status = s.status := rfl
@[simp] theorem setSinkRoom_result (r : Option Nat) (s : State) : (setSinkRoom r s).result = s.result := rfl
@[simp] theorem setSinkRoom_held (r : Option Nat) (s : State) : (setSinkRoom r s).held = s.held := rfl
@[simp] theorem setSinkRoom_response (r : Option Nat) (s : State) : (setSinkRoom r s).response = s.response := rfl
@[simp] theorem setSinkRoom_page (r : Option Nat) (s : State) : (setSinkRoom r s).page = s.page := rfl
@[simp] theorem setSinkRoom_codec (r : Option Nat) (s : State) : (setSinkRoom r s).codec = s.codec := rfl
@[simp] theorem setSinkRoom_sink (r : Option Nat) (s : State) : (setSinkRoom r s).sink = ⟨s.sink.bytes, r⟩ := rfl
@[simp] theorem setSinkRoom_packets (r : Option Nat) (s : State) : (setSinkRoom r s).packets = s.packets := rfl
@[simp] theorem setSinkRoom_xformView (r : Option Nat) (s : State) : (setSinkRoom r s).xformView = s.xformView := rfl
@[simp] theorem setSinkRoom_inputs (r : Option Nat) (s : State) : (setSinkRoom r s).inputs = s.inputs := rfl
@[simp] theorem setSinkRoom_resets (r : Option Nat) (s : State) : (setSinkRoom r s).resets = s.resets := rfl

@[simp] theorem respond_ctr (r : Response) (s : State) : (respond r s).ctr = s.ctr := by
  unfold respond; split <;> rfl
@[simp] theorem respond_rb (r : Response) (s : State) : (respond r s).rb = s.rb := by
  unfold respond; split <;> rfl
@[simp] theorem respond_hs (r : Response) (s : State) : (respond r s).hs = s.hs := by
  unfold respond; split <;> rfl
@[simp] theorem respond_sb (r : Response) (s : State) : (respond r s).sb = s.sb := by
  unfold respond; split <;> rfl
@[simp] theorem respond_ob (r : Response) (s : State) : (respond r s).ob = s.ob := by
  unfold respond; split <;> rfl
@[simp] theorem respond_status (r : Response) (s : State) : (respond r s).status = s.status := by
  unfold respond; split <;> rfl
@[simp] theorem respond_result (r : Response) (s : State) : (respond r s).result = s.result := by
  unfold respond; split <;> rfl
@[simp] theorem respond_held (r : Response) (s : State) : (respond r s).held = s.held := by
  unfold respond; split <;> rfl
@[simp] theorem respond_page (r : Response) (s : State) : (respond r s).page = s.page := by
  unfold respond; split <;> rfl
@[simp] theorem respond_codec (r : Response) (s : State) : (respond r s).codec = s.codec := by
  unfold respond; split <;> rfl
@[simp] theorem respond_sink (r : Response) (s : State) : (respond r s).sink = s.sink := by
  unfold respond; split <;> rfl
@[simp] theorem respond_packets (r : Response) (s : State) : (respond r s).packets = s.packets := by
  unfold respond; split <;> rfl
@[simp] theorem respond_xformView (r : Response) (s : State) : (respond r s).xformView = s.xformView := by
  unfold respond; split <;> rfl
@[simp] theorem respond_inputs (r : Response) (s : State) : (respond r s).inputs = s.inputs := by
  unfold respond; split <;> rfl
@[simp] theorem respond_resets (r : Response) (s : State) : (respond r s).resets = s.resets := by
  unfold respond; split <;> rfl

theorem respond_response (r : Response) (s : State) :
    (respond r s).response = if s.held then s.response else some r := by
  unfold respond; split <;> rfl

@[simp] theorem hardwareReset_page (s : State) : (hardwareReset s).page = s.page := rfl
@[simp] theorem hardwareReset_codec (s : State) : (hardwareReset s).codec = s.codec := rfl
@[simp] theorem hardwareReset_sink (s : State) : (hardwareReset s).sink = s.sink := rfl
@[simp] theorem hardwareReset_packets (s : State) : (hardwareReset s).packets = s.packets := rfl
@[simp] theorem hardwareReset_xformView (s : State) : (hardwareReset s).xformView = s.xformView := rfl
@[simp] theorem hardwareReset_inputs (s : State) : (hardwareReset s).inputs = s.inputs := rfl
@[simp] theorem hardwareReset_ctr (s : State) : (hardwareReset s).ctr = 0 := rfl
@[simp] theorem hardwareReset_status (s : State) : (hardwareReset s).status = 0 := rfl
@[simp] theorem hardwareReset_result (s : State) : (hardwareReset s).result = 0 := rfl
@[simp] theorem hardwareReset_held (s : State) : (hardwareReset s).held = false := rfl
@[simp] theorem hardwareReset_response (s : State) : (hardwareReset s).response = none := rfl
@[simp] theorem hardwareReset_resets (s : State) : (hardwareReset s).resets = s.resets + 1 := rfl

@[simp] theorem xformAdvance_rb (s : State) : (xformAdvance s).rb = s.rb := by
  unfold xformAdvance; split <;> rfl
@[simp] theorem xformAdvance_hs (s : State) : (xformAdvance s).hs = s.hs := by
  unfold xformAdvance; split <;> rfl
@[simp] theorem xformAdvance_sb (s : State) : (xformAdvance s).sb = s.sb := by
  unfold xformAdvance; split <;> rfl
@[simp] theorem xformAdvance_ob (s : State) : (xformAdvance s).ob = s.ob := by
  unfold xformAdvance; split <;> rfl
@[simp] theorem xformAdvance_result (s : State) : (xformAdvance s).result = s.result := by
  unfold xformAdvance; split <;> rfl
@[simp] theorem xformAdvance_held (s : State) : (xformAdvance s).held = s.held := by
  unfold xformAdvance; split <;> rfl
@[simp] theorem xformAdvance_response (s : State) : (xformAdvance s).response = s.response := by
  unfold xformAdvance; split <;> rfl
@[simp] theorem xformAdvance_page (s : State) : (xformAdvance s).page = s.page := by
  unfold xformAdvance; split <;> rfl
@[simp] theorem xformAdvance_codec (s : State) : (xformAdvance s).codec = s.codec := by
  unfold xformAdvance; split <;> rfl
@[simp] theorem xformAdvance_sink (s : State) : (xformAdvance s).sink = s.sink := by
  unfold xformAdvance; split <;> rfl
@[simp] theorem xformAdvance_packets (s : State) : (xformAdvance s).packets = s.packets := by
  unfold xformAdvance; split <;> rfl
@[simp] theorem xformAdvance_xformView (s : State) : (xformAdvance s).xformView = s.xformView := by
  unfold xformAdvance; split <;> rfl
@[simp] theorem xformAdvance_inputs (s : State) : (xformAdvance s).inputs = s.inputs := by
  unfold xformAdvance; split <;> rfl
@[simp] theorem xformAdvance_resets (s : State) : (xformAdvance s).resets = s.resets := by
  unfold xformAdvance; split <;> rfl

/-- The two fields an advance can write (40_keystream.md R101). -/
theorem xformAdvance_ctr (s : State) :
    (xformAdvance s).ctr = if s.ctr = 0xFFFFFFFF then 0 else s.ctr + 1 := by
  unfold xformAdvance; split <;> rfl

theorem xformAdvance_status (s : State) :
    (xformAdvance s).status = if s.ctr = 0xFFFFFFFF then s.status ||| flagMask .ctrwrap else s.status := by
  unfold xformAdvance; split <;> rfl

@[simp] theorem mergeAt_ctr (o c n : Nat) (s : State) : (mergeAt o c n s).ctr = s.ctr := by
  unfold mergeAt; dsimp only; split <;> rfl
@[simp] theorem mergeAt_rb (o c n : Nat) (s : State) : (mergeAt o c n s).rb = s.rb := by
  unfold mergeAt; dsimp only; split <;> rfl
@[simp] theorem mergeAt_hs (o c n : Nat) (s : State) : (mergeAt o c n s).hs = s.hs := by
  unfold mergeAt; dsimp only; split <;> rfl
@[simp] theorem mergeAt_result (o c n : Nat) (s : State) : (mergeAt o c n s).result = s.result := by
  unfold mergeAt; dsimp only; split <;> rfl
@[simp] theorem mergeAt_held (o c n : Nat) (s : State) : (mergeAt o c n s).held = s.held := by
  unfold mergeAt; dsimp only; split <;> rfl
@[simp] theorem mergeAt_response (o c n : Nat) (s : State) : (mergeAt o c n s).response = s.response := by
  unfold mergeAt; dsimp only; split <;> rfl
@[simp] theorem mergeAt_page (o c n : Nat) (s : State) : (mergeAt o c n s).page = s.page := by
  unfold mergeAt; dsimp only; split <;> rfl
@[simp] theorem mergeAt_codec (o c n : Nat) (s : State) : (mergeAt o c n s).codec = s.codec := by
  unfold mergeAt; dsimp only; split <;> rfl
@[simp] theorem mergeAt_sink (o c n : Nat) (s : State) : (mergeAt o c n s).sink = s.sink := by
  unfold mergeAt; dsimp only; split <;> rfl
@[simp] theorem mergeAt_packets (o c n : Nat) (s : State) : (mergeAt o c n s).packets = s.packets := by
  unfold mergeAt; dsimp only; split <;> rfl
@[simp] theorem mergeAt_xformView (o c n : Nat) (s : State) : (mergeAt o c n s).xformView = s.xformView := by
  unfold mergeAt; dsimp only; split <;> rfl
@[simp] theorem mergeAt_inputs (o c n : Nat) (s : State) : (mergeAt o c n s).inputs = s.inputs := by
  unfold mergeAt; dsimp only; split <;> rfl
@[simp] theorem mergeAt_resets (o c n : Nat) (s : State) : (mergeAt o c n s).resets = s.resets := by
  unfold mergeAt; dsimp only; split <;> rfl

theorem mergeAt_sb (o c n : Nat) (s : State) : (mergeAt o c n s).sb = mergeSource o c n s.sb := by
  unfold mergeAt; dsimp only; split <;> rfl

theorem mergeAt_ob (o c n : Nat) (s : State) :
    (mergeAt o c n s).ob =
      (orLoop (byteIndex o) (mergeSource o c n s.sb) (mergedCount o c n) 0 (s.ob, false)).1 := by
  unfold mergeAt; dsimp only; split <;> rfl

theorem mergeAt_status (o c n : Nat) (s : State) :
    (mergeAt o c n s).status =
      if (orLoop (byteIndex o) (mergeSource o c n s.sb) (mergedCount o c n) 0 (s.ob, false)).2 then
        s.status ||| flagMask .overlap
      else s.status := by
  unfold mergeAt; dsimp only; split <;> rfl

@[simp] theorem copyInto_ctr (S : Nat) (p : Packet) (rest : List Packet) (s : State) :
    (copyInto S p rest s).ctr = s.ctr := by
  unfold copyInto; repeat' split
  all_goals rfl
@[simp] theorem copyInto_rb (S : Nat) (p : Packet) (rest : List Packet) (s : State) :
    (copyInto S p rest s).rb = s.rb := by
  unfold copyInto; repeat' split
  all_goals rfl
@[simp] theorem copyInto_hs (S : Nat) (p : Packet) (rest : List Packet) (s : State) :
    (copyInto S p rest s).hs = s.hs := by
  unfold copyInto; repeat' split
  all_goals rfl
@[simp] theorem copyInto_sb (S : Nat) (p : Packet) (rest : List Packet) (s : State) :
    (copyInto S p rest s).sb = s.sb := by
  unfold copyInto; repeat' split
  all_goals rfl
@[simp] theorem copyInto_ob (S : Nat) (p : Packet) (rest : List Packet) (s : State) :
    (copyInto S p rest s).ob = s.ob := by
  unfold copyInto; repeat' split
  all_goals rfl
@[simp] theorem copyInto_result (S : Nat) (p : Packet) (rest : List Packet) (s : State) :
    (copyInto S p rest s).result = s.result := by
  unfold copyInto; repeat' split
  all_goals rfl
@[simp] theorem copyInto_response (S : Nat) (p : Packet) (rest : List Packet) (s : State) :
    (copyInto S p rest s).response = s.response := by
  unfold copyInto; repeat' split
  all_goals rfl
@[simp] theorem copyInto_page (S : Nat) (p : Packet) (rest : List Packet) (s : State) :
    (copyInto S p rest s).page = s.page := by
  unfold copyInto; repeat' split
  all_goals rfl
@[simp] theorem copyInto_codec (S : Nat) (p : Packet) (rest : List Packet) (s : State) :
    (copyInto S p rest s).codec = s.codec := by
  unfold copyInto; repeat' split
  all_goals rfl
@[simp] theorem copyInto_xformView (S : Nat) (p : Packet) (rest : List Packet) (s : State) :
    (copyInto S p rest s).xformView = s.xformView := by
  unfold copyInto; repeat' split
  all_goals rfl
@[simp] theorem copyInto_inputs (S : Nat) (p : Packet) (rest : List Packet) (s : State) :
    (copyInto S p rest s).inputs = s.inputs := by
  unfold copyInto; repeat' split
  all_goals rfl
@[simp] theorem copyInto_resets (S : Nat) (p : Packet) (rest : List Packet) (s : State) :
    (copyInto S p rest s).resets = s.resets := by
  unfold copyInto; repeat' split
  all_goals rfl

end Sys2Proof.Laws
end

