-- ==== Sys2Proof/Laws/Ops.lean ====
section
/-! SUPPORT. What each shared operation does, said once: bytes of a buffer, the two shift primitives, the OR loop, the
header codec, SINK. -/

namespace Sys2Proof.Laws

open Sys2Proof.Machine

/-! ### Bytes of a buffer -/

theorem bufGet_lt (b : Buffer) {i : Nat} (h : i < 16) : bufGet b i = b[i] := by
  simp [bufGet, h]

theorem bufGet_ge (b : Buffer) {i : Nat} (h : 16 ≤ i) : bufGet b i = 0 := by
  simp [bufGet, Nat.not_lt.mpr h]

/-- Two buffers with the same sixteen bytes are one. -/
theorem buf_ext {a b : Buffer} (h : ∀ i < 16, bufGet a i = bufGet b i) : a = b := by
  apply Vector.ext
  intro i hi
  simpa [bufGet_lt _ hi] using h i hi

/-- A read after a write: the byte written where it was written, every other byte as before. -/
theorem bufGet_bufPut (b : Buffer) (i j : Nat) (x : Byte) (hi : i < 16) :
    bufGet (bufPut b i x) j = if j = i then x else bufGet b j := by
  unfold bufGet bufPut
  by_cases h : j = i
  · subst h; simp [hi]
  · rw [Vector.getElem?_setIfInBounds_ne (Ne.symm h)]; simp [h]

@[simp] theorem bufGet_bufPut_same (b : Buffer) {i : Nat} (x : Byte) (hi : i < 16) :
    bufGet (bufPut b i x) i = x := by
  simp [bufGet_bufPut b i i x hi]

theorem bufGet_bufPut_ne (b : Buffer) {i j : Nat} (x : Byte) (h : j ≠ i) :
    bufGet (bufPut b i x) j = bufGet b j := by
  unfold bufGet bufPut
  rw [Vector.getElem?_setIfInBounds_ne (Ne.symm h)]

@[simp] theorem bufGet_bufZero (i : Nat) : bufGet bufZero i = 0 := by
  by_cases h : i < 16
  · interval_cases i <;> rfl
  · exact bufGet_ge _ (Nat.not_lt.mp h)

/-- Byte `4k + j` of a register word's buffer (20_memory.md R59): writing a word sets exactly its four bytes. -/
theorem bufGet_bufPutWord (b : Buffer) (k i : Nat) (v : Word) (hk : k < 4) :
    bufGet (bufPutWord b k v) i = if i / 4 = k then wordByte v (i % 4) else bufGet b i := by
  have h0 : 4 * k + 3 < 16 := by omega
  unfold bufPutWord
  by_cases hi : i / 4 = k
  · have : i = 4 * k + 0 ∨ i = 4 * k + 1 ∨ i = 4 * k + 2 ∨ i = 4 * k + 3 := by omega
    rcases this with rfl | rfl | rfl | rfl <;>
      simp [bufGet_bufPut, show 4 * k < 16 by omega, show 4 * k + 1 < 16 by omega, show 4 * k + 2 < 16 by omega,
        show 4 * k + 3 < 16 by omega, hi]
  · rw [bufGet_bufPut_ne _ _ (by omega), bufGet_bufPut_ne _ _ (by omega), bufGet_bufPut_ne _ _ (by omega),
      bufGet_bufPut_ne _ _ (by omega), if_neg hi]

/-! ### Buffer bits -/

/-- Buffer bit `8j + r` is bit `7 - r` of byte `j` (00_scope.md R11). -/
theorem bufBit_byte (b : Buffer) (j r : Nat) (h : r < 8) : bufBit b (8 * j + r) = (bufGet b j).getLsbD (7 - r) := by
  unfold bufBit byteIndex bitIndex
  rw [show (8 * j + r) / 8 = j by omega, show (8 * j + r) % 8 = r by omega]

/-- Two bytes with the same eight buffer bits are one. -/
theorem bufGet_eq_of_bits {a b : Buffer} (j : Nat) (h : ∀ r < 8, bufBit a (8 * j + r) = bufBit b (8 * j + r)) :
    bufGet a j = bufGet b j := by
  apply BitVec.eq_of_getLsbD_eq
  intro i hi
  have := h (7 - i) (by omega)
  rwa [bufBit_byte _ _ _ (by omega), bufBit_byte _ _ _ (by omega), show 7 - (7 - i) = i by omega] at this

/-- The bits of a region's number are its buffer bits, the first the most significant (42_packer.md R122). -/
theorem bufNumber_testBit (b : Buffer) (n i : Nat) :
    (bufNumber b n).testBit i = (decide (i < 8 * n) && bufBit b (8 * n - 1 - i)) := by
  induction n generalizing i with
  | zero => simp [bufNumber]
  | succ n ih =>
    rw [bufNumber, Nat.mul_comm, Nat.testBit_two_pow_mul_add (i := 8) _ (bufGet b n).isLt]
    split
    next h =>
      rw [show 8 * (n + 1) - 1 - i = 8 * n + (7 - i) by omega, bufBit_byte _ _ _ (by omega),
        show 7 - (7 - i) = i by omega, decide_eq_true (by omega), Bool.true_and]
      rfl
    next h =>
      rw [ih, show 8 * (n + 1) - 1 - i = 8 * n - 1 - (i - 8) by omega]
      congr 1
      rw [decide_eq_decide]
      omega

/-! ### The two shift primitives -/

/-- The ascending loop of 42_packer.md R120: each byte it writes comes from old bytes only, since iteration `i` reads
`B[i]` before iteration `i + 1` writes it. -/
theorem bufGet_alignLoop (shift : Nat) (k i : Nat) (b : Buffer) (j : Nat) (hi : 1 ≤ i) (hk : i + k ≤ 16) :
    bufGet (alignLoop shift k i b) j =
      if i ≤ j + 1 ∧ j + 1 < i + k then byteShl (bufGet b j) shift ||| byteShr (bufGet b (j + 1)) (8 - shift)
      else bufGet b j := by
  induction k generalizing i b with
  | zero => rw [alignLoop, if_neg (by omega)]
  | succ k ih =>
    have hi' : i - 1 < 16 := by omega
    rw [alignLoop, ih _ _ (by omega) (by omega)]
    by_cases h1 : j = i - 1
    · subst h1
      rw [if_neg (by omega), if_pos (by omega), bufGet_bufPut_same _ _ hi', Nat.sub_add_cancel hi]
    · rw [bufGet_bufPut_ne _ _ h1]
      by_cases h2 : i + 1 ≤ j + 1 ∧ j + 1 < i + 1 + k
      · rw [if_pos h2, if_pos (by omega), bufGet_bufPut_ne _ _ (by omega)]
      · rw [if_neg h2, if_neg (by omega)]

/-- Align-to-zero, all bytes at once from the old ones. -/
theorem bufGet_alignToZero (size shift : Nat) (b : Buffer) (j : Nat) (hs : 1 ≤ size) (hs' : size ≤ 16)
    (h0 : shift ≠ 0) :
    bufGet (alignToZero size shift b) j =
      if j + 1 < size then byteShl (bufGet b j) shift ||| byteShr (bufGet b (j + 1)) (8 - shift)
      else if j + 1 = size then byteShl (bufGet b j) shift
      else bufGet b j := by
  have hlast : size - 1 < 16 := by omega
  unfold alignToZero
  rw [if_neg h0]
  dsimp only
  rw [bufGet_bufPut _ _ _ _ hlast]
  by_cases h : j = size - 1
  · subst h
    rw [if_pos rfl, if_neg (by omega), if_pos (by omega), bufGet_alignLoop _ _ _ _ _ le_rfl (by omega),
      if_neg (by omega)]
  · rw [if_neg h, bufGet_alignLoop _ _ _ _ _ le_rfl (by omega)]
    by_cases h2 : j + 1 < size
    · rw [if_pos (by omega), if_pos h2]
    · rw [if_neg (by omega), if_neg h2, if_neg (by omega)]

/-- With `shift = 0` nothing moves (42_packer.md R126). -/
@[simp] theorem alignToZero_zero (size : Nat) (b : Buffer) : alignToZero size 0 b = b := rfl

/-- The descending loop of 42_packer.md R123: each byte it writes comes from old bytes only. -/
theorem bufGet_positionLoop (shift : Nat) (k : Nat) (b : Buffer) (j : Nat) (hk : k < 16) :
    bufGet (positionLoop shift k b) j =
      if 1 ≤ j ∧ j ≤ k then byteShr (bufGet b j) shift ||| byteShl (bufGet b (j - 1)) (8 - shift)
      else bufGet b j := by
  induction k generalizing b with
  | zero => rw [positionLoop, if_neg (by omega)]
  | succ k ih =>
    rw [positionLoop, ih _ (by omega)]
    by_cases h1 : j = k + 1
    · subst h1
      rw [if_neg (by omega), if_pos (by omega), bufGet_bufPut_same _ _ hk, Nat.add_sub_cancel]
    · rw [bufGet_bufPut_ne _ _ h1]
      by_cases h2 : 1 ≤ j ∧ j ≤ k
      · rw [if_pos h2, if_pos (by omega), bufGet_bufPut_ne _ _ (by omega)]
      · rw [if_neg h2, if_neg (by omega)]

/-- Position-at-offset, all bytes at once from the old ones. -/
theorem bufGet_positionAtOffset (size shift : Nat) (b : Buffer) (j : Nat) (hs : 1 ≤ size) (hs' : size ≤ 16)
    (h0 : shift ≠ 0) :
    bufGet (positionAtOffset size shift b) j =
      if j = 0 then byteShr (bufGet b 0) shift
      else if j < size then byteShr (bufGet b j) shift ||| byteShl (bufGet b (j - 1)) (8 - shift)
      else bufGet b j := by
  unfold positionAtOffset
  rw [if_neg h0]
  dsimp only
  rw [bufGet_bufPut _ _ _ _ (by omega)]
  by_cases h : j = 0
  · subst h
    rw [if_pos rfl, if_pos rfl, bufGet_positionLoop _ _ _ _ (by omega), if_neg (by omega)]
  · rw [if_neg h, if_neg h, bufGet_positionLoop _ _ _ _ (by omega)]
    by_cases h2 : j < size
    · rw [if_pos (by omega), if_pos h2]
    · rw [if_neg (by omega), if_neg h2]

@[simp] theorem positionAtOffset_zero (size : Nat) (b : Buffer) : positionAtOffset size 0 b = b := rfl

/-! ### The OR loop of MERGE -/

/-- Step 4 of 42_packer.md R128, byte by byte: the bytes `bo + i` to `bo + i + k - 1` are ORed, no other is touched. -/
theorem bufGet_orLoop (bo : Nat) (sb : Buffer) (k i : Nat) (acc : Buffer × Bool) (j : Nat) (h : bo + i + k ≤ 16) :
    bufGet (orLoop bo sb k i acc).1 j =
      if bo + i ≤ j ∧ j < bo + i + k then bufGet acc.1 j ||| bufGet sb (j - bo) else bufGet acc.1 j := by
  induction k generalizing i acc with
  | zero => rw [orLoop, if_neg (by omega)]
  | succ k ih =>
    rw [orLoop, ih _ _ (by omega)]
    dsimp only
    by_cases h1 : j = bo + i
    · subst h1
      rw [if_neg (by omega), if_pos (by omega), bufGet_bufPut_same _ _ (by omega), Nat.add_sub_cancel_left]
    · rw [bufGet_bufPut_ne _ _ h1]
      by_cases h2 : bo + (i + 1) ≤ j ∧ j < bo + (i + 1) + k
      · rw [if_pos h2, if_pos (by omega)]
      · rw [if_neg h2, if_neg (by omega)]

/-- When step 4 meets OVERLAP's test: some merged byte has a 1 where the OLD byte of OB has one (42_packer.md R130),
since no byte of OB is written before it is tested. -/
theorem orLoop_overlap (bo : Nat) (sb : Buffer) (k i : Nat) (acc : Buffer × Bool) :
    (orLoop bo sb k i acc).2 = true ↔
      acc.2 = true ∨ ∃ m, i ≤ m ∧ m < i + k ∧ bytesOverlap (bufGet acc.1 (bo + m)) (bufGet sb m) = true := by
  induction k generalizing i acc with
  | zero =>
    rw [orLoop]
    exact ⟨.inl, fun h => h.elim id fun ⟨m, h1, h2, _⟩ => absurd h2 (by omega)⟩
  | succ k ih =>
    rw [orLoop, ih]
    dsimp only
    rw [Bool.or_eq_true, or_assoc]
    refine or_congr_right ⟨?_, ?_⟩
    · rintro (h | ⟨m, h1, h2, h3⟩)
      · exact ⟨i, le_rfl, by omega, h⟩
      · rw [bufGet_bufPut_ne _ _ (by omega)] at h3
        exact ⟨m, by omega, by omega, h3⟩
    · rintro ⟨m, h1, h2, h3⟩
      by_cases hm : m = i
      · exact .inl (hm ▸ h3)
      · refine .inr ⟨m, by omega, by omega, ?_⟩
        rw [bufGet_bufPut_ne _ _ (by omega)]
        exact h3

/-! ### The header codec and SINK -/

/-- 41_header.md R111 (b): `hsz` is 1 or 3. -/
theorem headerSize_cases (c : Codec) (h : HeaderScratch) : headerSize c h = 1 ∨ headerSize c h = 3 := by
  unfold headerSize; split
  · exact .inr rfl
  · exact .inl rfl

/-- 41_header.md R111 (c): `psz` is below 65536. -/
theorem packetSize_lt (c : Codec) (h : HeaderScratch) : packetSize c h < 65536 := by
  unfold packetSize; split
  next size _ => exact size.isLt
  next => exact (Config.packetSize h.b0 h.b1 h.b2).isLt

/-- Reading the header scratch with another codec and another header: only the codec and the three bytes matter, and
for `hsz` only the first (41_header.md R111 (a), (b)). -/
theorem headerSize_congr (c : Codec) {h h' : HeaderScratch} (e : h.b0 = h'.b0) : headerSize c h = headerSize c h' := by
  unfold headerSize; rw [e]

/-- SINK grants `n` exactly when it has named a room of at least `n`. -/
theorem sinkGrants_iff (k : Sink) (n : Nat) : sinkGrants k n = true ↔ ∃ r, k.room = some r ∧ n ≤ r := by
  unfold sinkGrants; split <;> simp_all

/-- A commit of a whole view appends it. -/
theorem sinkCommit_bytes (k : Sink) (view : List Byte) : (sinkCommit view.length view k).bytes = k.bytes ++ view := by
  simp [sinkCommit]

end Sys2Proof.Laws
end

