-- ==== Sys2Proof/Laws/Step.lean ====
section
/-! SUPPORT. What a step can do, said once: the cases of the step, of one move and of a bus write. Invariants are
derived from these and do not unfold the step again. -/

namespace Sys2Proof.Laws

open Sys2Proof.Machine

/-- A fault is one more next state (60_exceptions.md R160). -/
@[simp] theorem raiseFault_eq (f : Flag) (s : State) : raiseFault f s = .next (setFlag f s) := rfl

/-- What COPY does with a presented packet, case by case (43_framer.md R150 to R155). -/
theorem copyInto_cases (S : Nat) (p : Packet) (rest : List Packet) (s : State) :
    (p.flatten.length < S ∧ copyInto S p rest s = setFlag .framing (takePacket rest s)) ∨
    (S < p.flatten.length ∧ copyInto S p rest s = setFlag .overlong (takePacket rest s)) ∨
    (p.flatten.length = S ∧ sinkGrants s.sink S = true ∧
      copyInto S p rest s = { takePacket rest s with sink := sinkCommit S p.flatten s.sink }) ∨
    (p.flatten.length = S ∧ sinkGrants s.sink S = false ∧ copyInto S p rest s = { s with held := true }) := by
  unfold copyInto
  by_cases h1 : p.flatten.length < S
  · exact .inl ⟨h1, if_pos h1⟩
  by_cases h2 : S < p.flatten.length
  · exact .inr (.inl ⟨h2, by rw [if_neg h1, if_pos h2]⟩)
  have h3 : p.flatten.length = S := by omega
  cases h4 : sinkGrants s.sink S with
  | true => exact .inr (.inr (.inl ⟨h3, rfl, by rw [if_neg h1, if_neg h2, if_pos rfl]⟩))
  | false => exact .inr (.inr (.inr ⟨h3, rfl, by rw [if_neg h1, if_neg h2, if_neg (by simp)]⟩))

/-- The move that is taken stands in the list, those that stay are the others in their order, and while a COPY is held
it is none of HOST's (43_framer.md R155). -/
theorem nextInput_spec {held : Bool} {l : List Input} {e : Input} {rest : List Input}
    (h : nextInput held l = some (e, rest)) :
    (∃ before after, l = before ++ e :: after ∧ rest = before ++ after ∧ ∀ x ∈ before, fromHost x = true) ∧
      (held = true → fromHost e = false) := by
  induction l generalizing e rest with
  | nil => simp [nextInput] at h
  | cons a l ih =>
    rw [nextInput] at h
    by_cases hc : (held && fromHost a) = true
    · rw [if_pos hc] at h
      split at h
      next e' rest' hn =>
        simp only [Option.some.injEq, Prod.mk.injEq] at h
        obtain ⟨rfl, rfl⟩ := h
        obtain ⟨⟨before, after, rfl, rfl, hb⟩, he⟩ := ih hn
        refine ⟨⟨a :: before, after, rfl, rfl, ?_⟩, he⟩
        intro x hx
        rcases List.mem_cons.mp hx with rfl | hx
        · exact (Bool.and_eq_true _ _ ▸ hc).2
        · exact hb x hx
      next => simp at h
    · rw [if_neg hc] at h
      simp only [Option.some.injEq, Prod.mk.injEq] at h
      obtain ⟨rfl, rfl⟩ := h
      refine ⟨⟨[], l, rfl, rfl, by simp⟩, ?_⟩
      rintro rfl
      simpa using hc

/-- With no COPY held the oldest move is taken. -/
@[simp] theorem nextInput_free (e : Input) (rest : List Input) : nextInput false (e :: rest) = some (e, rest) := rfl

/-- `respondTo` gives a next state only after a next state. -/
theorem respondTo_next {r : Response} {o : Host.Outcome State Fault Refusal} {t : State}
    (h : respondTo r o = .next t) : ∃ u, o = .next u ∧ t = respond r u := by
  cases o with
  | next u => exact ⟨u, rfl, by simpa [respondTo, eq_comm] using h⟩
  | fault f => simp [respondTo] at h
  | refused f => simp [respondTo] at h

/-- The three things a step that answers a next state can have done. -/
theorem step_cases {s t : State} (h : step s = .next t) :
    (s.held = true ∧ sinkGrants s.sink (packetSize s.codec s.hs) = true ∧
      ∃ u, exec .copy s = .next u ∧ t = respond (.write .okay) u) ∨
    (∃ e rest, nextInput s.held s.inputs = some (e, rest) ∧ runInput e { s with inputs := rest } = .next t) ∨
    (nextInput s.held s.inputs = none ∧ t = s) := by
  unfold step agentStep at h
  split at h
  next hc =>
    rw [Bool.and_eq_true] at hc
    exact .inl ⟨hc.1, hc.2, respondTo_next h⟩
  next =>
    split at h
    next e rest hn => exact .inr (.inl ⟨e, rest, hn, h⟩)
    next hn => exact .inr (.inr ⟨hn, by simpa [eq_comm] using h⟩)

/-- The four things a bus write can do: ERROR, a register write, a word that is no command, a command. -/
theorem busWrite_cases {off : Nat} {width : Width} {v : Word} {s t : State} (h : busWrite off width v s = .next t) :
    (t = { s with response := some (.write .error) }) ∨
    (∃ r s', accessedReg off width = some r ∧ writeReg v s r = some s' ∧
      t = { s' with response := some (.write .okay) }) ∨
    (accessedReg off width = some .cmd ∧
      t = respond (.write .okay) (setFlag .illcmd { s with response := none })) ∨
    (accessedReg off width = some .cmd ∧ ∃ i u, decode v = .ok i ∧
      exec i { s with response := none } = .next u ∧ t = respond (.write .okay) u) := by
  unfold busWrite at h
  split at h
  next hr =>
    obtain ⟨u, hu, rfl⟩ := respondTo_next h
    unfold runCommand at hu
    split at hu
    next i hd => exact .inr (.inr (.inr ⟨hr, i, u, hd, hu, rfl⟩))
    next =>
      refine .inr (.inr (.inl ⟨hr, ?_⟩))
      rw [raiseFault_eq, Host.Outcome.next.injEq] at hu
      rw [hu]
  next r hne hr =>
    split at h
    next s' hw => exact .inr (.inl ⟨r, s', hr, hw, by simpa [eq_comm] using h⟩)
    next => exact .inl (by simpa [eq_comm] using h)
  next => exact .inl (by simpa [eq_comm] using h)

/-- Any move that is next is run, the others left. -/
theorem step_move {s : State} {e : Input} {rest : List Input}
    (hg : (s.held && sinkGrants s.sink (packetSize s.codec s.hs)) = false)
    (hn : nextInput s.held s.inputs = some (e, rest)) : step s = runInput e { s with inputs := rest } := by
  unfold step agentStep
  rw [hg, hn, if_neg (by simp)]

/-- An address inside the window is the offset from BASE (20_memory.md R51). -/
theorem windowOffset_base (s : State) {off : Nat} (ho : off < 256) : windowOffset (base s + off) s = some off := by
  unfold windowOffset Config.windowBytes
  rw [if_pos (by omega), Nat.add_sub_cancel_left]

/-- HOST's write inside the window, when it is the next move and no COPY is held. -/
theorem step_hostWrite {s : State} {off : Nat} {width : Width} {v : Word} {rest : List Input} (hh : s.held = false)
    (hi : s.inputs = .hostWrite (base s + off) width v :: rest) (ho : off < 256) :
    step s = busWrite off width v { s with inputs := rest } := by
  rw [step_move (by rw [hh, Bool.false_and]) (by rw [hh, hi, nextInput_free])]
  simp only [runInput]
  rw [show base s = base { s with inputs := rest } from rfl, windowOffset_base _ ho]

/-- HOST's read inside the window, when it is the next move and no COPY is held. -/
theorem step_hostRead {s : State} {off : Nat} {width : Width} {rest : List Input} (hh : s.held = false)
    (hi : s.inputs = .hostRead (base s + off) width :: rest) (ho : off < 256) :
    step s = .next (busRead off width { s with inputs := rest }) := by
  rw [step_move (by rw [hh, Bool.false_and]) (by rw [hh, hi, nextInput_free])]
  simp only [runInput]
  rw [show base s = base { s with inputs := rest } from rfl, windowOffset_base _ ho]

/-- One more step of a run. -/
theorem run_succ {s t : State} (n : Nat) (h : step s = .next t) :
    Sys2Proof.core.run (n + 1) s = Sys2Proof.core.run n t := by
  have h' : Sys2Proof.core.step s = .next t := h
  exact (Host.Core.run.eq_2 Sys2Proof.core s n).trans (by rw [h'])

/-- A state whose step answers it again stays for any number of steps. -/
theorem run_stays {s : State} (h : step s = .next s) (n : Nat) : Sys2Proof.core.run n s = .next s := by
  induction n with
  | zero => rfl
  | succ n ih => rw [run_succ n h, ih]

/-- The host's fetch word is HOST's write of it to CMD, taken next with no COPY held (log 10). -/
theorem step_withFetchWord (s : State) (nbits w : Nat) :
    step (s.withFetchWord nbits w) =
      respondTo (.write .okay) (runCommand (tableWord nbits w)
        { s.withFetchWord nbits w with inputs := s.inputs, response := none }) := by
  have h : (s.withFetchWord nbits w).inputs =
      .hostWrite (base (s.withFetchWord nbits w) + 0) .w32 (tableWord nbits w) :: s.inputs := rfl
  rw [step_hostWrite rfl h (by norm_num)]
  rfl

/-- A bus read changes nothing but the response (20_memory.md R55). -/
theorem busRead_eq (off : Nat) (width : Width) (s : State) :
    ∃ v, busRead off width s = { s with response := some v } := by
  unfold busRead; split
  · exact ⟨_, rfl⟩
  · exact ⟨_, rfl⟩

end Sys2Proof.Laws
end

