-- ==== Sys2Proof/Machine/Assembler.lean ====
section
/-! DEFINITION. The assembler's lines as HOST's accesses (30_encoding.md R90) and the pseudo-commands (R91). -/

namespace Sys2Proof.Machine

/-- The offset column of 10_state.md R34. -/
def regOffset : Reg → Nat
  | .cmd => 0x00
  | .status => 0x04
  | .result => 0x08
  | .ctr => 0x0C
  | .rb k => 0x10 + 4 * k
  | .hdr => 0x20
  | .const => 0x24
  | .sb k => 0x40 + 4 * k
  | .ob k => 0x50 + 4 * k

/-- One line: a command, `WR reg, v` or `RD reg` (30_encoding.md R90). -/
inductive AsmLine where
  | command (i : Instr)
  | wr (r : Reg) (v : Word)
  | rd (r : Reg)
  deriving DecidableEq, Repr

/-- The access a line is, for a window at BASE (30_encoding.md R90: one line is one HOST access). -/
def assemble (base : Nat) : AsmLine → Input
  | .command i => .hostWrite (base + regOffset .cmd) .w32 (encode i)
  | .wr r v => .hostWrite (base + regOffset r) .w32 v
  | .rd r => .hostRead (base + regOffset r) .w32

/-- SHIFTRIGHT size, shift: the source's name of ALIGN0 (30_encoding.md R91; 90_conflicts.md C2). -/
def asmShiftRight (size shift : Nat) : AsmLine := .command (.align0 size shift)

/-- SHIFTLEFT size, shift: the source's name of POSOFF (30_encoding.md R91; 90_conflicts.md C2). -/
def asmShiftLeft (size shift : Nat) : AsmLine := .command (.posoff size shift)

/-- SPANB lenBytes, off: the span of a whole-byte field, lenBytes in 1..31 (30_encoding.md R91). -/
def asmSpanb (lenBytes off : Nat) : AsmLine := .command (.span (8 * lenBytes) off)

/-- CSIZE.ENC: `contentSize(false)` (30_encoding.md R91). -/
def asmCsizeEnc : AsmLine := .command (.csize false)

/-- CSIZE.DEC: `contentSize(true)` (30_encoding.md R91). -/
def asmCsizeDec : AsmLine := .command (.csize true)

/-- LDHDR b0, b1, b2: load the header scratch (30_encoding.md R91). -/
def asmLdhdr (b0 b1 b2 : Byte) : AsmLine := .wr .hdr (b0 ++ b1 ++ b2 ++ (0 : Byte))

/-- ERRCLR: clear every flag (30_encoding.md R91). -/
def asmErrclr : AsmLine := .wr .status 0x000000FF

end Sys2Proof.Machine
end

