-- ==== Sys2Proof/Laws/Bus.lean ====
section
/-! SUPPORT. The register map both ways, and the words of the buffer windows. -/

namespace Sys2Proof.Laws

open Sys2Proof.Machine

/-- The map sends each register's offset to that register (10_state.md R34). -/
theorem regAt_regOffset (r : Reg) : regAt (regOffset r) = some r := by
  cases r <;> first | rfl | (rename_i k; fin_cases k <;> rfl)

/-- A register is reached at its own offset only, by a 32-bit access (20_memory.md R52). -/
theorem accessedReg_some {off : Nat} {width : Width} {r : Reg} (h : accessedReg off width = some r) :
    width = .w32 ∧ off = regOffset r := by
  unfold accessedReg at h
  split at h
  next hc =>
    refine ⟨hc.1, ?_⟩
    unfold regAt at h
    split at h <;> first | (cases h; rfl) | cases h
  next => cases h

/-- Every register's offset is inside the window. -/
theorem regOffset_lt (r : Reg) : regOffset r < 256 := by
  cases r <;> simp only [regOffset] <;> omega

/-- A 32-bit access at a register's offset reaches it. -/
theorem accessedReg_regOffset (r : Reg) : accessedReg (regOffset r) .w32 = some r := by
  unfold accessedReg
  rw [if_pos ⟨rfl, by cases r <;> simp only [regOffset] <;> omega⟩, regAt_regOffset]

/-- A register word of a buffer read after it was written is the word (20_memory.md R59). -/
theorem bufWord_bufPutWord (b : Buffer) (k : Nat) (v : Word) (hk : k < 4) : bufWord (bufPutWord b k v) k = v := by
  unfold bufWord
  rw [bufGet_bufPutWord _ _ _ _ hk, bufGet_bufPutWord _ _ _ _ hk, bufGet_bufPutWord _ _ _ _ hk,
    bufGet_bufPutWord _ _ _ _ hk, if_pos (by omega), if_pos (by omega), if_pos (by omega), if_pos (by omega),
    show 4 * k % 4 = 0 by omega, show (4 * k + 1) % 4 = 1 by omega, show (4 * k + 2) % 4 = 2 by omega,
    show (4 * k + 3) % 4 = 3 by omega]
  apply BitVec.eq_of_getLsbD_eq
  intro i hi
  simp only [wordByte, BitVec.getLsbD_append, BitVec.getLsbD_extractLsb']
  split_ifs with c1 c2 c3
  · simp [c1]
  · rw [decide_eq_true c2, Bool.true_and]; congr 1; omega
  · rw [decide_eq_true c3, Bool.true_and]; congr 1; omega
  · rw [decide_eq_true (by omega), Bool.true_and]; congr 1; omega

end Sys2Proof.Laws
end

