-- ==== Sys2Proof/Laws/PerInstr.lean ====
section
/-! SUPPORT. A fact of every instruction, one lemma per constructor: the encoder puts the opcode of 30_encoding.md R84
in bits 31:24, whatever the operands (R80). -/

namespace Sys2Proof.Laws.OpcodeField

/-- The opcode column of 30_encoding.md R84. -/
def opcode : Instr → Nat
  | .kreset => 0x10
  | .hsize => 0x20
  | .psize => 0x21
  | .csize _ => 0x22
  | .align0 _ _ => 0x30
  | .posoff _ _ => 0x31
  | .merge _ _ _ => 0x32
  | .span _ _ => 0x33
  | .sbclr => 0x34
  | .obclr => 0x35
  | .copy => 0x40

/-- `encode i` has the opcode of `i` in bits 31:24. -/
def Statement (i : Instr) : Prop := i.wellFormed = true → bitField (encode i) 31 24 = opcode i

/-- A field of a word given by a number below 2^32. -/
theorem bitField_ofNat (n hi lo : Nat) (h : n < 2 ^ 32) :
    bitField (BitVec.ofNat 32 n) hi lo = n / 2 ^ lo % 2 ^ (hi + 1 - lo) := by
  rw [bitField, BitVec.toNat_ofNat, Nat.mod_eq_of_lt h]

theorem kreset : Statement .kreset := fun _ => rfl
theorem hsize : Statement .hsize := fun _ => rfl
theorem psize : Statement .psize := fun _ => rfl
theorem csize (d : Bool) : Statement (.csize d) := fun _ => by cases d <;> rfl

theorem align0 (size shift : Nat) : Statement (.align0 size shift) := by
  intro h
  simp only [Instr.wellFormed, Bool.and_eq_true, decide_eq_true_eq] at h
  rw [encode, bitField_ofNat _ _ _ (by omega), opcode]
  omega

theorem posoff (size shift : Nat) : Statement (.posoff size shift) := by
  intro h
  simp only [Instr.wellFormed, Bool.and_eq_true, decide_eq_true_eq] at h
  rw [encode, bitField_ofNat _ _ _ (by omega), opcode]
  omega

theorem merge (outoff srcoff n : Nat) : Statement (.merge outoff srcoff n) := by
  intro h
  simp only [Instr.wellFormed, Bool.and_eq_true, decide_eq_true_eq] at h
  rw [encode, bitField_ofNat _ _ _ (by omega), opcode]
  omega

theorem span (len off : Nat) : Statement (.span len off) := by
  intro h
  simp only [Instr.wellFormed, Bool.and_eq_true, decide_eq_true_eq] at h
  rw [encode, bitField_ofNat _ _ _ (by omega), opcode]
  omega

theorem sbclr : Statement .sbclr := fun _ => rfl
theorem obclr : Statement .obclr := fun _ => rfl
theorem copy : Statement .copy := fun _ => rfl

end Sys2Proof.Laws.OpcodeField
end

