-- ==== Sys2Proof/Tests/Slice0.lean ====
section
/-! SUPPORT. Tests. Expected values are those of spec/95_test_vectors.md (the vector's id stands at each test) or are
worked from the rule named; witnesses show that the hypotheses of each obligation are met. -/

namespace Sys2Proof.Tests

open Sys2Proof.Machine Sys2Proof.Safety

/-! ### Helpers -/

/-- The test codec TCODEC (95_test_vectors.md section 2), on the headers used here. -/
def tcodec : Codec where
  marks := [(0x80, true), (0x0B, false), (0x04, false), (0x00, false)]
  sizes := [(⟨0x80, 0x00, 0x0E⟩, 14), (⟨0x80, 0x00, 0x02⟩, 2), (⟨0x80, 0x00, 0x03⟩, 3), (⟨0x0B, 0x11, 0x22⟩, 11),
    (⟨0x04, 0x00, 0x00⟩, 4), (⟨0x00, 0x00, 0x00⟩, 0)]

/-- A buffer with these first bytes and zeros after them. -/
def buf (l : List Byte) : Buffer :=
  #v[l.getD 0 0, l.getD 1 0, l.getD 2 0, l.getD 3 0, l.getD 4 0, l.getD 5 0, l.getD 6 0, l.getD 7 0,
    l.getD 8 0, l.getD 9 0, l.getD 10 0, l.getD 11 0, l.getD 12 0, l.getD 13 0, l.getD 14 0, l.getD 15 0]

/-- The reset state with TCODEC, these SB and OB bytes and this header. -/
def st (sb ob : List Byte) (hs : HeaderScratch := ⟨0, 0, 0⟩) : State :=
  { State.reset with sb := buf sb, ob := buf ob, hs := hs, codec := tcodec }

/-- The state after a step, if there is one. -/
def after (s : State) : Option State :=
  match step s with
  | .next t => some t
  | .fault _ => none
  | .refused _ => none

/-- The state after the command word `w` is written to CMD. -/
def cmd (w : Word) (s : State) : Option State := after (s.withFetchWord 32 w.toNat)

/-- The state after one move. -/
def move (e : Input) (s : State) : Option State := after { s with inputs := [e] }

/-- The state with HEADER 04 xx xx (psz 4), a packet, a sink of one byte and this room. -/
def framerState (p : Packet) (room : Option Nat) : State :=
  { st [] [] ⟨0x04, 0, 0⟩ with packets := [p], sink := ⟨[0x55], room⟩ }

/-! ### Well-formedness: each check refuses a term -/

theorem test_wf_align0_size : (Instr.align0 32 0).wellFormed = false := by decide
theorem test_wf_align0_shift : (Instr.align0 3 8).wellFormed = false := by decide
theorem test_wf_posoff_size : (Instr.posoff 32 0).wellFormed = false := by decide
theorem test_wf_posoff_shift : (Instr.posoff 3 8).wellFormed = false := by decide
theorem test_wf_merge_outoff : (Instr.merge 128 0 1).wellFormed = false := by decide
theorem test_wf_merge_srcoff : (Instr.merge 0 128 1).wellFormed = false := by decide
theorem test_wf_merge_n : (Instr.merge 0 0 16).wellFormed = false := by decide
theorem test_wf_span_len : (Instr.span 256 0).wellFormed = false := by decide
theorem test_wf_span_off : (Instr.span 1 128).wellFormed = false := by decide
/-- An operand outside the command's domain is well formed: it raises OPERAND (30_encoding.md R88). -/
theorem test_wf_operand_fault : (Instr.align0 17 3).wellFormed = true := by decide

/-! ### Decoding: words written bit by bit from the formats of 30_encoding.md R81 -/

theorem test_decode_kreset : decode 0b00010000_000000000000000000000000 = .ok .kreset := by decide
theorem test_decode_hsize : decode 0b00100000_000000000000000000000000 = .ok .hsize := by decide
theorem test_decode_psize : decode 0b00100001_000000000000000000000000 = .ok .psize := by decide
theorem test_decode_csize : decode 0b00100010_00000000000000000000000_1 = .ok (.csize true) := by decide
theorem test_decode_align0 : decode 0b00110000_00000000000_10110_00000_101 = .ok (.align0 22 5) := by decide
theorem test_decode_posoff : decode 0b00110001_00000000000_01101_00000_011 = .ok (.posoff 13 3) := by decide
theorem test_decode_merge : decode 0b00110010_1011_0000_0_0101110_0_1001011 = .ok (.merge 75 46 11) := by decide
theorem test_decode_span : decode 0b00110011_00000000_10010110_0_1010011 = .ok (.span 150 83) := by decide
theorem test_decode_sbclr : decode 0b00110100_000000000000000000000000 = .ok .sbclr := by decide
theorem test_decode_obclr : decode 0b00110101_000000000000000000000000 = .ok .obclr := by decide
theorem test_decode_copy : decode 0b01000000_000000000000000000000000 = .ok .copy := by decide
/-- E1, E2, E3 (R87) and H14, A12, A13, M21, P23, C9 (R88). -/
theorem test_decode_reserved :
    ([0x00000000, 0xFFFFFFFF, 0x41000000, 0x22000002, 0x30002004, 0x30000080, 0x32008000, 0x33010800,
      0x40000001] : List Word).all (fun w => (decodeWord w).isNone) = true := by decide
/-- The table's numbering and the word are one (30_encoding.md R80). -/
theorem test_decodeTableWord : decodeTableWord 32 0x3280003F = some (.merge 63 0 8) := by decide

/-! ### Keystream -/

/-- K1 and K6: CTR is 0 and CTRWRAP is kept. -/
theorem test_kreset : (cmd 0x10000000 { st [] [] with ctr := 7, status := 0x80 }).map (fun t => (t.ctr, t.status)) =
    some (0, 0x80) := by decide
/-- K8: a reserved bit makes it ILLCMD, CTR unchanged. -/
theorem test_kreset_reserved_bit :
    (cmd 0x10000001 { st [] [] with ctr := 7 }).map (fun t => (t.ctr, t.status)) = some (7, 0x01) := by decide
/-- K4. -/
theorem test_advance : (move .xformAdvance { st [] [] with ctr := 0xFFFFFFFE }).map (fun t => (t.ctr, t.status)) =
    some (0xFFFFFFFF, 0x00) := by decide
/-- K5. -/
theorem test_advance_wraps : (move .xformAdvance { st [] [] with ctr := 0xFFFFFFFF }).map (fun t => (t.ctr, t.status)) =
    some (0, 0x80) := by decide

/-! ### Header and sizes, with TCODEC -/

/-- H1. -/
theorem test_hsize : (cmd 0x20000000 (st [] [] ⟨0x80, 0x00, 0x0E⟩)).map (·.result) = some 3 := by decide
/-- H5. -/
theorem test_hsize_short : (cmd 0x20000000 (st [] [] ⟨0x0B, 0x11, 0x22⟩)).map (·.result) = some 1 := by decide
/-- H2. -/
theorem test_psize : (cmd 0x21000000 (st [] [] ⟨0x80, 0x00, 0x0E⟩)).map (·.result) = some 14 := by decide
/-- H4. -/
theorem test_csize : (cmd 0x22000001 (st [] [] ⟨0x80, 0x00, 0x0E⟩)).map (fun t => (t.result, t.status)) =
    some (12, 0) := by decide
/-- H13: psz 0 < hsz 1 by exactly one, the test is before `d` is added. -/
theorem test_csize_size_fault :
    (cmd 0x22000001 { st [] [] with result := 11 }).map (fun t => (t.result, t.status)) = some (11, 0x08) := by decide

/-! ### Shifts -/

/-- A5: byte 2 outside the region is neither read nor written. -/
theorem test_align0 : (cmd 0x30000204 (st [0xAB, 0xCD, 0xEF] [])).map (·.sb) = some (buf [0xBC, 0xD0, 0xEF]) := by
  decide
/-- A11: OPERAND, SB unchanged. -/
theorem test_align0_operand : (cmd 0x30001103 (st [0xAB] [])).map (fun t => (t.sb, t.status)) =
    some (buf [0xAB], 0x02) := by decide
/-- B5: the low bits of the last byte are lost. -/
theorem test_posoff : (cmd 0x31000204 (st [0xAB, 0xCD, 0xEF] [])).map (·.sb) = some (buf [0x0A, 0xBC, 0xEF]) := by
  decide
/-- B4. -/
theorem test_posoff_seven : (cmd 0x31000407 (st [0x12, 0x34, 0x56, 0x78] [])).map (·.sb) =
    some (buf [0x00, 0x24, 0x68, 0xAC]) := by decide

/-! ### Merge, span, clears -/

/-- M6: a 13-bit field moved from bit 3 to bit 5. -/
theorem test_merge : (cmd 0x32200305 (st [0x1F, 0xFF, 0x00] [])).map (fun t => (t.sb, t.ob, t.status)) =
    some (buf [0x07, 0xFF, 0xC0], buf [0x07, 0xFF, 0xC0], 0) := by decide
/-- M12: OVERLAP, the merge completes. -/
theorem test_merge_overlap : (cmd 0x32200004 (st [0xAB, 0xCD] [0xF8])).map (fun t => (t.ob, t.status)) =
    some (buf [0xFA, 0xBC, 0xD0], 0x40) := by decide
/-- P14. -/
theorem test_span : (cmd 0x33000D05 (st [] [])).map (·.result) = some 3 := by decide
/-- P20: the largest result. -/
theorem test_span_largest : (cmd 0x3300FF7F (st [] [])).map (·.result) = some 33 := by decide
/-- Z1. -/
theorem test_sbclr : (cmd 0x34000000 { st [1, 2] [3] with status := 0x40 }).map (fun t => (t.sb, t.ob, t.status)) =
    some (buf [], buf [3], 0x40) := by decide
/-- Z2. -/
theorem test_obclr : (cmd 0x35000000 { st [1, 2] [3] with status := 0x40 }).map (fun t => (t.sb, t.ob, t.status)) =
    some (buf [1, 2], buf [], 0x40) := by decide

/-! ### Copy -/

/-- C2: segmentation, an empty segment among them. -/
theorem test_copy : (cmd 0x40000000 (framerState [[0xA1], [], [0xB2, 0xC3, 0xD4]] (some 9))).map
    (fun t => (t.sink.bytes, t.packets, t.held, t.response)) =
    some ([0x55, 0xA1, 0xB2, 0xC3, 0xD4], [], false, some (.write .okay)) := by decide
/-- C8: a short packet faults at once though SINK does not grant. -/
theorem test_copy_short : (cmd 0x40000000 (framerState [[0xA1, 0xB2, 0xC3]] none)).map
    (fun t => (t.sink.bytes, t.packets, t.held, t.status)) = some ([0x55], [], false, 0x10) := by decide
/-- C7: held, without response, nothing changed. -/
theorem test_copy_held : (cmd 0x40000000 (framerState [[0xA1, 0xB2, 0xC3, 0xD4]] none)).map
    (fun t => (t.sink.bytes, t.packets.length, t.held, t.response)) = some ([0x55], 1, true, none) := by decide
/-- U21: no packet, no step. -/
theorem test_copy_no_packet : (match exec .copy State.reset with | .fault .copyWithoutPacket => true | _ => false) = true := by
  decide
/-- R155: the grant lets the held COPY complete in the next step. -/
theorem test_hold_ends : (after { framerState [[1, 2, 3, 4]] (some 4) with held := true }).map
    (fun t => (t.sink.bytes, t.held, t.response)) = some ([0x55, 1, 2, 3, 4], false, some (.write .okay)) := by decide

/-! ### The register window -/

/-- W3 (20_memory.md R59). -/
theorem test_write_ob3 : (move (assemble 0 (.wr (.ob 3) 0xAABBCCDD)) (st [] [])).map (·.ob) =
    some (buf [0, 0, 0, 0, 0, 0, 0, 0, 0, 0, 0, 0, 0xAA, 0xBB, 0xCC, 0xDD]) := by decide
/-- W5: HDR reads back with its low byte 0. -/
theorem test_read_hdr : (move (assemble 0 (.rd .hdr)) (st [] [] ⟨0x80, 0x00, 0x0E⟩)).map (·.response) =
    some (some (.read .okay 0x80000E00)) := by decide
/-- W6. -/
theorem test_read_const : (move (assemble 0 (.rd .const)) (st [] [])).map (·.response) =
    some (some (.read .okay 0xF83D0B08)) := by decide
/-- W8. -/
theorem test_write_ctr : (move (assemble 0 (.wr .ctr 1)) (st [] [])).map (fun t => (t.ctr, t.response)) =
    some (0, some (.write .error)) := by decide
/-- W12. -/
theorem test_read_reserved : (move (.hostRead 0x60 .w32) (st [] [])).map (·.response) =
    some (some (.read .error 0)) := by decide
/-- W14. -/
theorem test_narrow_write : (move (.hostWrite 0x40 .w8 0xFF) (st [] [])).map (fun t => (t.sb, t.response)) =
    some (buf [], some (.write .error)) := by decide
/-- E7. -/
theorem test_status_write : (move (assemble 0 (.wr .status 0x10)) { st [] [] with status := 0x14 }).map (·.status) =
    some 0x04 := by decide
/-- E9: ERRCLR clears every flag and the fault output falls. -/
theorem test_errclr : (move (assemble 0 asmErrclr) { st [] [] with status := 0x04 }).map
    (fun t => (t.status, faultOutput t)) = some (0, false) := by decide
/-- 30_encoding.md R91: LDHDR. -/
theorem test_ldhdr : (move (assemble 0 (asmLdhdr 0xA1 0xB2 0xC3)) (st [] [])).map (·.hs) =
    some ⟨0xA1, 0xB2, 0xC3⟩ := by decide
/-- 30_encoding.md R91: the pseudo-commands' words. -/
theorem test_pseudo_words : ([asmShiftRight 3 4, asmShiftLeft 3 4, asmSpanb 8 63, asmCsizeEnc, asmCsizeDec].map
    (assemble 0)) = [.hostWrite 0 .w32 0x30000304, .hostWrite 0 .w32 0x31000304, .hostWrite 0 .w32 0x3300403F,
      .hostWrite 0 .w32 0x22000000, .hostWrite 0 .w32 0x22000001] := by decide

/-! ### Launch premises after reset (70_reset_and_hazards.md R197) and the ghost of KeyLoaded -/

theorem test_reset_premises : NoFault State.reset ∧ NoHold State.reset ∧ RunOver State.reset := by decide
theorem test_obclr_makes_clean : (cmd 0x35000000 (st [] [1])).map (fun t => decide (CleanOB t)) = some true := by decide
theorem test_key_loaded : KeyLoaded 0 [.hostWrite 0x10 .w32 1, .hostWrite 0x14 .w32 2, .hostWrite 0x18 .w32 3,
    .hostWrite 0x1C .w32 4] ∧ ¬ KeyLoaded 0 [.hostWrite 0x10 .w32 1, .hostWrite 0x14 .w32 2, .hostWrite 0x18 .w32 3,
    .hostWrite 0x1C .w32 4, .reset] := by decide
theorem test_header_current : HeaderCurrent { st [] [] ⟨0x80, 0x00, 0x0E⟩ with packets := [[[0x80], [0x00, 0x0E, 7]]] } := by
  decide

/-! ### Witnesses: each obligation's hypotheses are met, clause by clause at a boundary of its range -/

/-- The reset state with TCODEC and these moves to come. -/
def moves (l : List Input) : State := { st [] [] with inputs := l }

/-- A held COPY of a 4-byte packet with these moves to come. -/
def heldState (room : Option Nat) (l : List Input) : State :=
  { framerState [[1, 2], [3, 4]] room with held := true, inputs := l }

theorem witness_DecodeOfEncodeIsTheInstruction : (Instr.merge 127 127 15).wellFormed = true ∧
    (Instr.span 255 127).wellFormed = true ∧ (Instr.align0 31 7).wellFormed = true := by decide
theorem witness_EncodeOfDecodeIsTheWord : decode 0x32F07F7F = .ok (.merge 127 127 15) := by decide
theorem witness_WordThatIsNoCommandRaisesIllcmdOnly :
    HostWriteNext (moves [.hostWrite 0 .w32 0x30002004]) 0x00 0x30002004 [] ∧
    (∀ row ∈ commandTable, (0x30002004 : Word) &&& row.1 ≠ row.2) :=
  have h : commandTable.all (fun row => decide ((0x30002004 : Word) &&& row.1 ≠ row.2)) = true := by decide
  ⟨by decide, fun row hr => of_decide_eq_true (List.all_eq_true.mp h row hr)⟩
theorem witness_StepRunsTheDecodedCommand :
    HostWriteNext (moves [.hostWrite 0 .w32 0x34000000]) 0x00 0x34000000 [] ∧ decode 0x34000000 = .ok .sbclr ∧
    (∃ t, exec .sbclr { moves [] with response := none } = .next t) ∧
    decode 0x40000000 = .ok .copy ∧ exec .copy { moves [] with response := none } = .fault .copyWithoutPacket :=
  ⟨by decide, by decide, ⟨_, rfl⟩, by decide, rfl⟩
theorem witness_KresetSetsTheCounterToZero :
    bitField 0x10000001 31 24 = 0x10 ∧ (0x10000001 : Word) ≠ 0x10000000 := by decide
/-- The wrap, the value before it, and an advance during a hold. -/
theorem witness_XformAdvanceAddsOneOrWraps :
    MoveNext { moves [.xformAdvance] with ctr := 0xFFFFFFFF } .xformAdvance [] ∧
    MoveNext { moves [.xformAdvance] with ctr := 0xFFFFFFFE } .xformAdvance [] ∧
    MoveNext (heldState none [.hostRead 0 .w32, .xformAdvance]) .xformAdvance [.hostRead 0 .w32] := by decide
theorem witness_XformAdvance_other_commands :
    ∃ t, exec (.span 1 0) (moves []) = .next t ∧ Instr.span 1 0 ≠ .kreset := ⟨_, rfl, by decide⟩
theorem witness_XformReadSeesCounterAndRing : MoveNext (moves [.xformRead]) .xformRead [] := by decide
theorem witness_OnlyKresetAdvanceAndResetWriteTheCounter :
    ∃ t, step { moves [.hostWrite 0 .w32 0x10000000] with ctr := 7 } = .next t ∧ t.ctr ≠ 7 := ⟨_, rfl, by decide⟩
theorem witness_HeaderLoadReplacesThreeBytes :
    HostWriteNext (moves [.hostWrite 0x20 .w32 0xA1B2C3FF]) 0x20 0xA1B2C3FF [] := by decide
/-- psz = hsz, and psz one below hsz. -/
theorem witness_CsizeReturnsContentSizeOrRaisesSize :
    headerSize tcodec ⟨0x80, 0x00, 0x03⟩ ≤ packetSize tcodec ⟨0x80, 0x00, 0x03⟩ ∧
    packetSize tcodec ⟨0x80, 0x00, 0x02⟩ < headerSize tcodec ⟨0x80, 0x00, 0x02⟩ := by decide
theorem witness_ContentSizeLaw :
    packetSize tcodec ⟨0x80, 0x00, 0x0E⟩ = 14 ∧ headerSize tcodec ⟨0x80, 0x00, 0x0E⟩ = 3 ∧
    packetSize tcodec ⟨0x0B, 0x11, 0x22⟩ = 11 ∧ headerSize tcodec ⟨0x0B, 0x11, 0x22⟩ = 1 := by decide
theorem witness_ShiftByZeroIsANoOp : (0 : Nat) ≤ 31 ∧ (31 : Nat) ≤ 31 := by decide
/-- The least and the largest size and shift of ALIGN0, POSOFF and the round trip. -/
theorem witness_shift_domains : sizeInDomain 1 = true ∧ sizeInDomain 16 = true ∧ sizeInDomain 0 = false ∧
    sizeInDomain 17 = false ∧ 1 ≤ 7 ∧ 7 ≤ 7 := by decide
theorem witness_OperandIsRaisedExactlyOutsideTheDomain :
    outsideDomain (.align0 0 3) = true ∧ outsideDomain (.posoff 17 1) = true ∧ outsideDomain (.merge 7 7 0) = true ∧
    outsideDomain (.span 0 0) = true ∧ outsideDomain (.align0 17 0) = false ∧
    ∃ t, exec (.span 0 5) (moves []) = .next t ∧ flagOf .operand (moves []) = false ∧ flagOf .operand t = true :=
  ⟨by decide, by decide, by decide, by decide, by decide, _, rfl, by decide, by decide⟩
/-- The last byte of OB, the largest n, a spill that just fits (M13, M16, M7). -/
theorem witness_MergeFits : 120 / 8 + mergedCount 120 0 1 ≤ 16 ∧ 8 / 8 + mergedCount 8 0 15 ≤ 16 ∧
    63 / 8 + mergedCount 63 0 8 ≤ 16 ∧ 63 / 8 + 8 + 1 ≤ 16 ∧ 0 % 8 < 63 % 8 ∧
    ((3 : Nat) % 8 ≤ 3 % 8 ∨ bufGet (buf []) 1 >>> 3 = 0) ∧ bufGet (buf [0xAB, 0xCD, 0x0F]) 2 >>> 4 = 0 := by decide
/-- A 1 on a 1, and none (M12, M11): OB byte 0 against the shifted SB byte 0. -/
theorem witness_MergeSetsOverlapWhenAOneMeetsAOne :
    (∃ i, i < mergedCount 4 0 2 ∧
      bufGet (buf [0xF8]) (4 / 8 + i) &&& bufGet (mergeSource 4 0 2 (buf [0xAB, 0xCD])) i ≠ 0) ∧
    (∀ i, i < mergedCount 4 0 2 →
      bufGet (buf [0xF0]) (4 / 8 + i) &&& bufGet (mergeSource 4 0 2 (buf [0xAB, 0xCD])) i = 0) := by decide
/-- M14 and M17. -/
theorem witness_MergePastTheOutputRaisesCapacityOnly :
    16 < 121 / 8 + mergedCount 121 0 1 ∧ 16 < 9 / 8 + mergedCount 9 0 15 ∧
    ∃ t, exec (.span 255 127) (moves []) = .next t := ⟨by decide, by decide, _, rfl⟩
/-- SPAN's two clauses at their ends, and the two clauses of the span law: 15 + 1 fits, 15 + 2 does not. -/
theorem witness_Span : (1 : Nat) ≤ 1 ∧ 255 < 256 ∧ 127 < 128 ∧
    120 / 8 + shiftSpan (8 * 1 - 0 % 8) 120 ≤ 16 ∧ 16 < 121 / 8 + shiftSpan (8 * 1 - 0 % 8) 121 := by decide
theorem witness_PackerReadsOnlyItsBuffers : isPacker (.merge 4 0 2) = true ∧
    (moves []).sb = { moves [] with ctr := 5 }.sb ∧ (moves []).ob = { moves [] with ctr := 5 }.ob := by decide
/-- The four ways a COPY with a packet can go, at room exactly S and one below. -/
theorem witness_Copy :
    ((framerState [[1, 2], [3, 4]] (some 4)).held = false ∧
      [[1, 2], [3, 4]].flatten.length = packetSize tcodec ⟨0x04, 0, 0⟩ ∧
      sinkGrants ⟨[0x55], some 4⟩ (packetSize tcodec ⟨0x04, 0, 0⟩) = true) ∧
    [[1, 2, 3]].flatten.length < packetSize tcodec ⟨0x04, 0, 0⟩ ∧
    packetSize tcodec ⟨0x04, 0, 0⟩ < [[1, 2, 3, 4, 5]].flatten.length ∧
    sinkGrants ⟨[0x55], some 3⟩ (packetSize tcodec ⟨0x04, 0, 0⟩) = false ∧
    HostWriteNext { framerState [[1, 2, 3, 4]] (some 3) with inputs := [.hostWrite 0 .w32 0x40000000] } 0x00
      0x40000000 [] := by decide
theorem witness_SegmentationIsInvisible :
    ([[0xA1, 0xB2], [0xC3, 0xD4]] : Packet).flatten = ([[0xA1], [], [0xB2, 0xC3, 0xD4]] : Packet).flatten := by decide
theorem witness_HeldCopyWithoutGrantHangs :
    (heldState (some 3) [.hostRead 0x04 .w32]).held = true ∧
    sinkGrants (heldState (some 3) []).sink (packetSize tcodec ⟨0x04, 0, 0⟩) = false ∧
    (∀ e ∈ (heldState (some 3) [.hostRead 0x04 .w32]).inputs, fromHost e = true) := by decide
theorem witness_GrantEndsTheHold :
    (heldState none [.hostRead 0x04 .w32, .sinkRoom (some 4)]).inputs =
      [.hostRead 0x04 .w32] ++ .sinkRoom (some 4) :: [] ∧
    (∀ e ∈ [Input.hostRead 0x04 .w32], fromHost e = true) ∧ packetSize tcodec ⟨0x04, 0, 0⟩ ≤ 4 ∧
    sinkGrants (heldState none []).sink (packetSize tcodec ⟨0x04, 0, 0⟩) = false := by decide
theorem witness_ReadsReturnTheRegisters : HostReadNext (moves [.hostRead 0x5C .w32]) (0x50 + 4 * 3) [] ∧
    HostReadNext (moves [.hostRead 0x24 .w32]) 0x24 [] := by decide
theorem witness_WritesReplaceAllThirtyTwoBits :
    HostWriteNext (moves [.hostWrite 0x1C .w32 1]) (0x10 + 4 * (3 : Fin 4)) 1 [] ∧
    HostWriteNext (moves [.hostWrite 0x40 .w32 1]) (0x40 + 4 * (0 : Fin 4)) 1 [] ∧
    HostWriteNext (moves [.hostWrite 0x5C .w32 1]) (0x50 + 4 * (3 : Fin 4)) 1 [] := by decide
theorem witness_ReadAfterWriteReturnsTheValue :
    (moves [.hostWrite 0x4C .w32 9, .hostRead 0x4C .w32]).inputs =
      .hostWrite (base (moves []) + 0x4C) .w32 9 :: .hostRead (base (moves []) + 0x4C) .w32 :: [] ∧
    0x4C = 0x40 + 4 * 3 := by decide
/-- The clauses meet at 0x24 (CONST: a read is OKAY, a write is not) and 0x28, at 0x3C and 0x40, at 0x5C and 0x60. -/
theorem witness_BadAccessesAnswerErrorOnly :
    accessedReg 0x24 .w32 = some .const ∧ accessedReg 0x28 .w32 = none ∧ accessedReg 0x3C .w32 = none ∧
    accessedReg 0x40 .w32 = some (.sb 0) ∧ accessedReg 0x5C .w32 = some (.ob 3) ∧ accessedReg 0x60 .w32 = none ∧
    accessedReg 0xFC .w32 = none ∧ accessedReg 0x40 .w16 = none ∧ accessedReg 0x41 .w32 = none ∧
    (moves [.hostRead 0x28 .w32]).inputs = .hostRead (base (moves []) + 0x28) .w32 :: [] ∧
    (moves [.hostWrite 0x24 .w32 1]).inputs = .hostWrite (base (moves []) + 0x24) .w32 1 :: [] := by decide
/-- One below BASE and one above the window, for the window at 0x100. -/
theorem witness_AccessesOutsideTheWindowAreNotSeen :
    0xFF < base { moves [] with page := 1 } ∧ base { moves [] with page := 1 } + 256 ≤ 0x200 ∧
    (moves [.hostRead 0x200 .w32]).held = false := by decide
theorem witness_StatusWrite : HostWriteNext (moves [.hostWrite 0x04 .w32 0xFFFFFFFF]) 0x04 0xFFFFFFFF [] ∧
    (0xFFFFFFFF : Word).setWidth 8 = (0xFF : BitVec 8) := by decide
theorem witness_FaultsArePrecise : ∃ t, (moves []).held = false ∧ exec (.merge 121 0 1) (moves []) = .next t ∧
    isFault .capacity = true ∧ flagOf .capacity (moves []) = false ∧ flagOf .capacity t = true :=
  ⟨_, rfl, rfl, rfl, by decide, by decide⟩
theorem witness_SomeCommandsNeverFault : Instr.align0 31 0 ∈
    [Instr.kreset, .hsize, .psize, .sbclr, .obclr, .align0 31 0, .posoff 31 0] := by decide
theorem witness_FlagsAreSticky : ∃ t, step { moves [.hostWrite 0x04 .w32 0x10] with status := 0x14 } = .next t ∧
    flagOf .framing { moves [] with status := 0x14 } = true ∧ flagOf .framing t = false :=
  ⟨_, rfl, by decide, by decide⟩
theorem witness_ResetEventAbandonsTheHold : MoveNext (heldState none [.reset]) .reset [] := by decide
theorem witness_HoldInvariantIsKept : ∃ t, (HeldCopyMatches (heldState none [.xformAdvance]) ∧
    HeldUnanswered (heldState none [.xformAdvance])) ∧ step (heldState none [.xformAdvance]) = .next t ∧
    t.held = true := ⟨_, ⟨fun _ => ⟨[[1, 2], [3, 4]], [], rfl, by decide⟩, fun _ => rfl⟩, rfl, rfl⟩
theorem witness_OnlyWholePacketsReachTheSink : ∃ t, step (heldState (some 4) []) = .next t ∧
    t.sink.bytes ≠ (heldState (some 4) []).sink.bytes := ⟨_, rfl, by decide⟩
theorem witness_OnlyHostAndResetWriteRingAndHeader :
    (∃ t, step (moves [.hostWrite 0x1C .w32 1]) = .next t ∧ t.rb[(3 : Fin 4)] ≠ (moves []).rb[(3 : Fin 4)]) ∧
    ∃ t, step (moves [.hostWrite 0x20 .w32 0x80000000]) = .next t ∧ t.hs ≠ (moves []).hs :=
  ⟨⟨_, rfl, by decide⟩, _, rfl, by decide⟩
theorem witness_OnlySizesAndSpanWriteResult : ∃ t, step (moves [.hostWrite 0 .w32 0x33000100]) = .next t ∧
    t.result ≠ (moves []).result := ⟨_, rfl, by decide⟩
theorem witness_ConfigurationAndBuffersAreHosts :
    (∃ t, step (moves [.hostWrite 0x40 .w32 1]) = .next t ∧ t.sb ≠ (moves []).sb) ∧
    (∃ t, step (moves [.hostWrite 0x5C .w32 1]) = .next t ∧ t.ob ≠ (moves []).ob) ∧
    ∃ t, step { moves [.hostWrite 0 .w32 0x35000000] with ob := buf [1] } = .next t ∧ t.ob ≠ buf [1] :=
  ⟨⟨_, rfl, by decide⟩, ⟨_, rfl, by decide⟩, _, rfl, by decide⟩
/-- A SINK that grants once, exactly the declared size, is fair to a run with one COPY, held before its grant. -/
theorem witness_RunWithAFairSinkEnds : SinkFair (heldState none [.hostRead 0x04 .w32, .sinkRoom (some 4)]) ∧
    ¬ SinkFair (heldState none [.hostRead 0x04 .w32, .sinkRoom (some 3)]) := by
  constructor
  · intro n t h hh
    match n, h with
    | 0, h =>
      cases h
      exact .inr ⟨.sinkRoom (some 4), by decide, .inr ⟨4, rfl, by decide⟩⟩
    | 1, h =>
      cases h
      exact .inl (by decide)
    | 2, h =>
      cases h
      exact absurd hh (by decide)
    | n + 3, h =>
      rw [Laws.run_succ _ rfl, Laws.run_succ _ rfl, Laws.run_succ _ rfl, Laws.run_stays rfl] at h
      cases h
      exact absurd hh (by decide)
  · intro h
    rcases h 0 _ rfl rfl with h | ⟨e, he, rfl | ⟨m, rfl, hm⟩⟩
    · exact absurd h (by decide)
    · exact absurd he (by decide)
    · have h3 : m = 3 := by simpa [heldState] using he
      exact absurd hm (by rw [h3]; decide)

end Sys2Proof.Tests
end

/-! ## The state family (10_state.md): what a step does, and the statements derived from it -/

namespace Sys2Proof.Proofs

open Sys2Proof.Machine Sys2Proof.Safety Sys2Proof.Laws

/-! ### What a command, a move and a step can do, said once -/

/-- What a command that answers a next state has done to the state it ran in. -/
inductive CommandEffect (s : State) : Instr → State → Prop
  /-- Nothing: a shift by 0 (42_packer.md R126). -/
  | unchanged (i : Instr) : CommandEffect s i s
  /-- A test of the command failed, and its flag is set (60_exceptions.md R160). -/
  | fault (i : Instr) (f : Flag) : CommandEffect s i (setFlag f s)
  /-- KRESET (40_keystream.md R100). -/
  | kreset : CommandEffect s .kreset { s with ctr := 0 }
  /-- A size command or SPAN has written its number (10_state.md R28). -/
  | result (i : Instr) (n : Nat)
      (hi : i = .hsize ∨ i = .psize ∨ (∃ d, i = .csize d) ∨ ∃ len off, i = .span len off) :
      CommandEffect s i (setResult n s)
  /-- A shift or SBCLR has replaced SB (42_packer.md R120, R123, R137). -/
  | source (i : Instr) (sb : Buffer)
      (hi : i = .sbclr ∨ (∃ size shift, i = .align0 size shift) ∨ ∃ size shift, i = .posoff size shift) :
      CommandEffect s i { s with sb := sb }
  /-- MERGE with nothing raised before it (42_packer.md R128). -/
  | merge (outoff srcoff n : Nat) : CommandEffect s (.merge outoff srcoff n) (mergeAt outoff srcoff n s)
  /-- OBCLR (42_packer.md R138). -/
  | obclr : CommandEffect s .obclr { s with ob := bufZero }
  /-- COPY with a presented packet (43_framer.md R150). -/
  | copy (packet : Packet) (rest : List Packet) (hp : s.packets = packet :: rest) :
      CommandEffect s .copy (copyInto (packetSize s.codec s.hs) packet rest s)

/-- COPY answers a next state only with a presented packet (70_reset_and_hazards.md R187). -/
theorem execCopy_next {s u : State} (h : execCopy s = .next u) :
    ∃ packet rest, s.packets = packet :: rest ∧ u = copyInto (packetSize s.codec s.hs) packet rest s := by
  unfold execCopy at h
  split at h
  next => cases h
  next packet rest hp =>
    cases h
    exact ⟨packet, rest, hp, rfl⟩

theorem exec_effect {i : Instr} {s u : State} (h : exec i s = .next u) : CommandEffect s i u := by
  cases i with
  | kreset => cases h; exact .kreset
  | hsize => cases h; exact .result _ _ (.inl rfl)
  | psize => cases h; exact .result _ _ (.inr (.inl rfl))
  | csize d =>
    cases h
    unfold contentSize
    split
    · exact .fault _ _
    · exact .result _ _ (.inr (.inr (.inl ⟨d, rfl⟩)))
  | align0 size shift =>
    simp only [exec, execAlign0] at h
    split_ifs at h
    · cases h; exact .unchanged _
    · cases h; exact .source _ _ (.inr (.inl ⟨size, shift, rfl⟩))
    · cases h; exact .fault _ _
  | posoff size shift =>
    simp only [exec, execPosoff] at h
    split_ifs at h
    · cases h; exact .unchanged _
    · cases h; exact .source _ _ (.inr (.inr ⟨size, shift, rfl⟩))
    · cases h; exact .fault _ _
  | merge outoff srcoff n =>
    simp only [exec, execMerge] at h
    split_ifs at h
    · cases h; exact .fault _ _
    · cases h; exact .merge _ _ _
    · cases h; exact .fault _ _
  | span len off =>
    simp only [exec, execSpan] at h
    split_ifs at h
    · cases h; exact .fault _ _
    · cases h; exact .result _ _ (.inr (.inr (.inr ⟨len, off, rfl⟩)))
  | sbclr => cases h; exact .source _ _ (.inl rfl)
  | obclr => cases h; exact .obclr
  | copy =>
    obtain ⟨packet, rest, hp, rfl⟩ := execCopy_next h
    exact .copy packet rest hp

/-- What a move that answers a next state has done. -/
inductive MoveEffect (s : State) : Input → State → Prop
  /-- Nothing but a response: a read, an ERROR, an access outside the window (20_memory.md R51, R55). -/
  | quiet (e : Input) (r : Option Response) : MoveEffect s e { s with response := r }
  /-- HOST has written STATUS (60_exceptions.md R173). -/
  | writeStatus (v : Word) :
      MoveEffect s (.hostWrite (base s + 0x04) .w32 v) { clearFlags v s with response := some (.write .okay) }
  /-- HOST has written RBk (10_state.md R23). -/
  | writeRing (k : Fin 4) (v : Word) :
      MoveEffect s (.hostWrite (base s + 0x10 + 4 * k) .w32 v)
        { s with rb := s.rb.set k v, response := some (.write .okay) }
  /-- HOST has written HDR (41_header.md R110). -/
  | writeHeader (v : Word) :
      MoveEffect s (.hostWrite (base s + 0x20) .w32 v) { loadHeader v s with response := some (.write .okay) }
  /-- HOST has written SBk (20_memory.md R59). -/
  | writeSource (k : Fin 4) (v : Word) :
      MoveEffect s (.hostWrite (base s + 0x40 + 4 * k) .w32 v)
        { s with sb := bufPutWord s.sb k v, response := some (.write .okay) }
  /-- HOST has written OBk (20_memory.md R59). -/
  | writeOutput (k : Fin 4) (v : Word) :
      MoveEffect s (.hostWrite (base s + 0x50 + 4 * k) .w32 v)
        { s with ob := bufPutWord s.ob k v, response := some (.write .okay) }
  /-- HOST has written a word to CMD that is no command (30_encoding.md R88). -/
  | illegal (w : Word) :
      MoveEffect s (.hostWrite (base s) .w32 w) (respond (.write .okay) (setFlag .illcmd { s with response := none }))
  /-- HOST has written a command to CMD, and it has run (30_encoding.md R80). -/
  | command (w : Word) (i : Instr) (u : State) (hd : decode w = .ok i)
      (hu : CommandEffect { s with response := none } i u) :
      MoveEffect s (.hostWrite (base s) .w32 w) (respond (.write .okay) u)
  | xformRead : MoveEffect s .xformRead (xformRead s)
  | xformAdvance : MoveEffect s .xformAdvance (xformAdvance s)
  | present (packet : Packet) : MoveEffect s (.present packet) (presentPacket packet s)
  | sinkRoom (room : Option Nat) : MoveEffect s (.sinkRoom room) (setSinkRoom room s)
  | reset : MoveEffect s .reset (hardwareReset s)

/-- An access is seen only at an address inside the window (20_memory.md R51). -/
theorem windowOffset_some {addr off : Nat} {s : State} (h : windowOffset addr s = some off) :
    addr = base s + off := by
  unfold windowOffset at h
  split at h
  next hc => cases h; omega
  next => cases h

/-- An OKAY write of a register other than CMD (20_memory.md R54, R56). -/
theorem writeReg_effect {r : Reg} {v : Word} {s s' : State} (h : writeReg v s r = some s') :
    MoveEffect s (.hostWrite (base s + regOffset r) .w32 v) { s' with response := some (.write .okay) } := by
  cases r with
  | cmd | result | ctr | const => cases h
  | status => cases h; exact .writeStatus v
  | rb k => cases h; rw [regOffset, ← Nat.add_assoc]; exact .writeRing k v
  | hdr => cases h; exact .writeHeader v
  | sb k => cases h; rw [regOffset, ← Nat.add_assoc]; exact .writeSource k v
  | ob k => cases h; rw [regOffset, ← Nat.add_assoc]; exact .writeOutput k v

theorem busWrite_effect {off : Nat} {width : Width} {v : Word} {s t : State} (h : busWrite off width v s = .next t) :
    MoveEffect s (.hostWrite (base s + off) width v) t := by
  rcases busWrite_cases h with rfl | ⟨r, s', hr, hw, rfl⟩ | ⟨hr, rfl⟩ | ⟨hr, i, u, hd, hu, rfl⟩
  · exact .quiet _ _
  all_goals obtain ⟨rfl, rfl⟩ := accessedReg_some hr
  · exact writeReg_effect hw
  · exact .illegal v
  · exact .command v i u hd (exec_effect hu)

theorem runInput_effect {e : Input} {s t : State} (h : runInput e s = .next t) : MoveEffect s e t := by
  cases e with
  | hostRead addr width =>
    simp only [runInput] at h
    split at h
    next off _ =>
      obtain ⟨r, hr⟩ := busRead_eq off width s
      cases h
      rw [hr]
      exact .quiet _ _
    next => cases h; exact .quiet _ s.response
  | hostWrite addr width v =>
    simp only [runInput] at h
    split at h
    next off ho =>
      rw [windowOffset_some ho]
      exact busWrite_effect h
    next => cases h; exact .quiet _ s.response
  | xformRead => cases h; exact .xformRead
  | xformAdvance => cases h; exact .xformAdvance
  | present packet => cases h; exact .present packet
  | sinkRoom room => cases h; exact .sinkRoom room
  | reset => cases h; exact .reset

/-- A step completes the held COPY, takes the next move, or leaves the state as it is (70_reset_and_hazards.md R196). -/
theorem step_effect {s t : State} (h : step s = .next t) :
    (∃ packet rest, s.packets = packet :: rest ∧
      t = respond (.write .okay) (copyInto (packetSize s.codec s.hs) packet rest s)) ∨
    (∃ e rest, MoveNext s e rest ∧ MoveEffect { s with inputs := rest } e t) ∨
    t = s := by
  cases hg : s.held && sinkGrants s.sink (packetSize s.codec s.hs) with
  | true =>
    rw [step, agentStep, if_pos hg] at h
    obtain ⟨u, hu, rfl⟩ := respondTo_next h
    obtain ⟨packet, rest, hp, rfl⟩ := execCopy_next hu
    exact .inl ⟨packet, rest, hp, rfl⟩
  | false =>
    rcases step_cases h with ⟨hh, hs, -⟩ | ⟨e, rest, hn, hr⟩ | ⟨-, rfl⟩
    · rw [hh, hs] at hg
      cases hg
    · exact .inr (.inl ⟨e, rest, ⟨hg, hn⟩, runInput_effect hr⟩)
    · exact .inr (.inr rfl)

/-- What no COPY writes changes only in a step that takes a move. -/
theorem move_of_changed {α : Type} (field : State → α)
    (hcopy : ∀ S packet rest s, field (respond (.write .okay) (copyInto S packet rest s)) = field s)
    {s t : State} (h : step s = .next t) (hne : field t ≠ field s) :
    ∃ e rest, MoveNext s e rest ∧ MoveEffect { s with inputs := rest } e t := by
  rcases step_effect h with ⟨packet, rest, -, rfl⟩ | hmove | rfl
  · exact absurd (hcopy _ _ _ _) hne
  · exact hmove
  · exact absurd rfl hne

/-! ### STATUS: a set flag stays set -/

theorem flagOf_setFlag {f : Flag} (g : Flag) {s : State} (h : flagOf f s = true) : flagOf f (setFlag g s) = true := by
  simp only [flagOf, setFlag_status, BitVec.getLsbD_or, Bool.or_eq_true]
  exact .inl h

theorem flagIndex_lt (f : Flag) : flagIndex f < 8 := by
  cases f <;> decide

/-- Clearing takes away exactly the flags whose bit is written as 1 (60_exceptions.md R173). -/
theorem flagOf_clearFlags (f : Flag) (v : Word) (s : State) :
    flagOf f (clearFlags v s) = (flagOf f s && !v.getLsbD (flagIndex f)) := by
  simp [flagOf, flagIndex_lt f]

theorem flagOf_respond (f : Flag) (r : Response) (s : State) : flagOf f (respond r s) = flagOf f s := by
  simp only [flagOf, respond_status]

theorem flagOf_copyInto {f : Flag} {s : State} (h : flagOf f s = true) (S : Nat) (packet : Packet)
    (rest : List Packet) : flagOf f (copyInto S packet rest s) = true := by
  rcases copyInto_cases S packet rest s with ⟨-, e⟩ | ⟨-, e⟩ | ⟨-, -, e⟩ | ⟨-, -, e⟩ <;> rw [e]
  · exact flagOf_setFlag _ h
  · exact flagOf_setFlag _ h
  · exact h
  · exact h

theorem flagOf_mergeAt {f : Flag} {s : State} (h : flagOf f s = true) (outoff srcoff n : Nat) :
    flagOf f (mergeAt outoff srcoff n s) = true := by
  unfold mergeAt
  dsimp only
  split
  · exact flagOf_setFlag _ h
  · exact h

theorem flagOf_xformAdvance {f : Flag} {s : State} (h : flagOf f s = true) : flagOf f (xformAdvance s) = true := by
  unfold xformAdvance
  split
  · exact flagOf_setFlag _ h
  · exact h

theorem CommandEffect.keeps_flag {f : Flag} {i : Instr} {s u : State} (hu : CommandEffect s i u)
    (h : flagOf f s = true) : flagOf f u = true := by
  cases hu with
  | fault g => exact flagOf_setFlag _ h
  | merge => exact flagOf_mergeAt h _ _ _
  | copy => exact flagOf_copyInto h _ _ _
  | unchanged | kreset | result | source | obclr => exact h

/-- The moves a set flag does not survive. -/
theorem MoveEffect.clears_flag {f : Flag} {e : Input} {s t : State} (ht : MoveEffect s e t)
    (hs : flagOf f s = true) (hf : flagOf f t = false) :
    e = .reset ∨ ∃ v : Word, e = .hostWrite (base s + 0x04) .w32 v ∧ v.getLsbD (flagIndex f) = true := by
  have keeps : ¬ flagOf f t = true := by simp [hf]
  have hs' : flagOf f { s with response := none } = true := hs
  cases ht with
  | reset => exact .inl rfl
  | writeStatus v =>
    have hclear : (flagOf f s && !v.getLsbD (flagIndex f)) = false := (flagOf_clearFlags f v s).symm.trans hf
    exact .inr ⟨v, rfl, by simpa [hs] using hclear⟩
  | illegal => exact absurd ((flagOf_respond _ _ _).trans (flagOf_setFlag _ hs')) keeps
  | command w i u _ hu => exact absurd ((flagOf_respond _ _ _).trans (hu.keeps_flag hs')) keeps
  | xformAdvance => exact absurd (flagOf_xformAdvance hs) keeps
  | quiet | writeRing | writeHeader | writeSource | writeOutput | xformRead | present | sinkRoom =>
    exact absurd hs keeps

/-- Settles O51: COPY only sets flags, and of the moves only the two named clear one. -/
theorem flagsAreSticky : Obligations.FlagsAreSticky := by
  intro s t f h hs hf
  rcases step_effect h with ⟨packet, rest, -, rfl⟩ | ⟨e, rest, hm, ht⟩ | rfl
  · rw [flagOf_respond, flagOf_copyInto hs] at hf
    cases hf
  · exact ⟨e, rest, hm, ht.clears_flag hs hf⟩
  · rw [hs] at hf
    cases hf

/-! ### SINK: only whole packets of the declared size -/

/-- The sink's bytes of `t` are those of `s` and one packet more: the front packet of `s`, of the declared size, which
`t` no longer has (43_framer.md R150, R157). -/
def CommitsFrontPacket (s t : State) : Prop :=
  ∃ packet rest, s.packets = packet :: rest ∧ t.packets = rest ∧
    packet.flatten.length = packetSize s.codec s.hs ∧ t.sink.bytes = s.sink.bytes ++ packet.flatten

theorem copyInto_commits {s : State} {packet : Packet} {rest : List Packet} (hp : s.packets = packet :: rest)
    (hne : (copyInto (packetSize s.codec s.hs) packet rest s).sink.bytes ≠ s.sink.bytes) :
    CommitsFrontPacket s (copyInto (packetSize s.codec s.hs) packet rest s) := by
  rcases copyInto_cases (packetSize s.codec s.hs) packet rest s with ⟨-, e⟩ | ⟨-, e⟩ | ⟨hS, -, e⟩ | ⟨-, -, e⟩ <;>
    rw [e] at hne ⊢
  · exact absurd rfl hne
  · exact absurd rfl hne
  · rw [← hS]
    exact ⟨packet, rest, hp, rfl, hS, sinkCommit_bytes _ _⟩
  · exact absurd rfl hne

theorem CommandEffect.commits {i : Instr} {s u : State} (hu : CommandEffect s i u)
    (hne : u.sink.bytes ≠ s.sink.bytes) : CommitsFrontPacket s u := by
  cases hu with
  | copy packet rest hp => exact copyInto_commits hp hne
  | merge => exact absurd (by rw [mergeAt_sink]) hne
  | unchanged | fault | kreset | result | source | obclr => exact absurd rfl hne

theorem CommitsFrontPacket.respond {s u : State} (h : CommitsFrontPacket s u) (r : Response) :
    CommitsFrontPacket s (respond r u) := by
  simpa only [CommitsFrontPacket, respond_packets, respond_sink] using h

theorem MoveEffect.commits {e : Input} {s t : State} (ht : MoveEffect s e t)
    (hne : t.sink.bytes ≠ s.sink.bytes) : CommitsFrontPacket s t := by
  cases ht with
  | command w i u _ hu =>
    rw [respond_sink] at hne
    exact (hu.commits hne).respond _
  | illegal => exact absurd (by rw [respond_sink]; rfl) hne
  | xformAdvance => exact absurd (by rw [xformAdvance_sink]) hne
  | quiet | writeStatus | writeRing | writeHeader | writeSource | writeOutput | xformRead | present | sinkRoom
  | reset => exact absurd rfl hne

/-- Settles O56: only COPY commits, in the step of its CMD write or in the one that ends its hold. -/
theorem onlyWholePacketsReachTheSink : Obligations.OnlyWholePacketsReachTheSink := by
  intro s t h hne
  rcases step_effect h with ⟨packet, rest, hp, rfl⟩ | ⟨e, rest, -, ht⟩ | rfl
  · rw [respond_sink] at hne
    exact (copyInto_commits hp hne).respond _
  · exact ht.commits hne
  · exact absurd rfl hne

/-! ### What the register window reads -/

/-- HOST's read of a register is answered OKAY with its value, and changes nothing else (20_memory.md R55). -/
theorem step_read_register {s : State} {rest : List Input} (r : Reg) (h : HostReadNext s (regOffset r) rest) :
    step s = .next { s with inputs := rest, response := some (.read .okay (readReg s r)) } := by
  rw [step_hostRead h.1 h.2 (regOffset_lt r), busRead, accessedReg_regOffset]
  cases r <;> rfl

/-- Writing a buffer window its own four bytes changes nothing (20_memory.md R59). -/
theorem bufPutWord_own_bytes {b : Buffer} {k : Nat} {v : Word} (hk : k < 4)
    (h : ∀ j, j < 4 → wordByte v j = bufGet b (4 * k + j)) : bufPutWord b k v = b := by
  apply buf_ext
  intro i _
  rw [bufGet_bufPutWord _ _ _ _ hk]
  split
  next hi => rw [h _ (Nat.mod_lt _ (by decide)), ← hi, Nat.div_add_mod]
  next => rfl

/-- The word of a buffer window is the one with the window's four bytes (20_memory.md R59). -/
theorem eq_bufWord {b : Buffer} {k : Nat} {v : Word} (hk : k < 4)
    (h : ∀ j, j < 4 → wordByte v j = bufGet b (4 * k + j)) : v = bufWord b k := by
  have hread := bufWord_bufPutWord b k v hk
  rw [bufPutWord_own_bytes hk h] at hread
  exact hread.symm

/-- Settles O42: each clause names one register's offset and the value `readReg` gives it. -/
theorem readsReturnTheRegisters : Obligations.ReadsReturnTheRegisters := by
  intro s rest off v h hv
  have key : ∃ r, off = regOffset r ∧ v = readReg s r := by
    rcases hv with hv | hv | hv | hv | ⟨k, hv⟩ | hv | hv | ⟨k, rfl, hv⟩ | ⟨k, rfl, hv⟩
    · exact ⟨.cmd, hv⟩
    · exact ⟨.status, hv⟩
    · exact ⟨.result, hv⟩
    · exact ⟨.ctr, hv⟩
    · exact ⟨.rb k, hv⟩
    · exact ⟨.hdr, hv⟩
    · exact ⟨.const, hv⟩
    · exact ⟨.sb k, rfl, eq_bufWord k.isLt hv⟩
    · exact ⟨.ob k, rfl, eq_bufWord k.isLt hv⟩
  obtain ⟨r, rfl, rfl⟩ := key
  exact step_read_register r h

/-! ### Who writes RB, HS, RESULT, SB, OB and the configuration -/

/-- No command writes RB, HS, the codec or BASE (10_state.md R23, R24, R32). -/
theorem CommandEffect.keeps_host_fields {i : Instr} {s u : State} (hu : CommandEffect s i u) :
    u.rb = s.rb ∧ u.hs = s.hs ∧ u.codec = s.codec ∧ u.page = s.page := by
  cases hu with
  | merge => simp
  | copy => simp
  | unchanged | fault | kreset | result | source | obclr => exact ⟨rfl, rfl, rfl, rfl⟩

/-- The commands that change RESULT, and none of them sets a flag as it does (10_state.md R28). -/
theorem CommandEffect.writes_result {i : Instr} {s u : State} (hu : CommandEffect s i u)
    (hne : u.result ≠ s.result) :
    u.status = s.status ∧ (i = .hsize ∨ i = .psize ∨ (∃ d, i = .csize d) ∨ ∃ len off, i = .span len off) := by
  cases hu with
  | result i n hi => exact ⟨rfl, hi⟩
  | merge => exact absurd (mergeAt_result _ _ _ _) hne
  | copy => exact absurd (copyInto_result _ _ _ _) hne
  | unchanged | fault | kreset | source | obclr => exact absurd rfl hne

/-- The commands that change SB (10_state.md R25). -/
theorem CommandEffect.writes_sb {i : Instr} {s u : State} (hu : CommandEffect s i u) (hne : u.sb ≠ s.sb) :
    i = .sbclr ∨ (∃ size shift, i = .align0 size shift) ∨ (∃ size shift, i = .posoff size shift) ∨
      ∃ outoff srcoff n, i = .merge outoff srcoff n := by
  cases hu with
  | source i sb hi =>
    rcases hi with hi | hi | hi
    · exact .inl hi
    · exact .inr (.inl hi)
    · exact .inr (.inr (.inl hi))
  | merge outoff srcoff n => exact .inr (.inr (.inr ⟨outoff, srcoff, n, rfl⟩))
  | copy => exact absurd (copyInto_sb _ _ _ _) hne
  | unchanged | fault | kreset | result | obclr => exact absurd rfl hne

/-- The commands that change OB (10_state.md R26). -/
theorem CommandEffect.writes_ob {i : Instr} {s u : State} (hu : CommandEffect s i u) (hne : u.ob ≠ s.ob) :
    i = .obclr ∨ ∃ outoff srcoff n, i = .merge outoff srcoff n := by
  cases hu with
  | obclr => exact .inl rfl
  | merge outoff srcoff n => exact .inr ⟨outoff, srcoff, n, rfl⟩
  | copy => exact absurd (copyInto_ob _ _ _ _) hne
  | unchanged | fault | kreset | result | source => exact absurd rfl hne

theorem MoveEffect.writes_rb {e : Input} {s t : State} (ht : MoveEffect s e t) (k : Fin 4)
    (hne : t.rb[k] ≠ s.rb[k]) : e = .reset ∨ ∃ v, e = .hostWrite (base s + 0x10 + 4 * k) .w32 v := by
  cases ht with
  | reset => exact .inl rfl
  | writeRing j v =>
    by_cases hj : j = k
    · exact .inr ⟨v, by rw [hj]⟩
    · exact absurd (Vector.getElem_set_ne j.isLt k.isLt (Fin.val_ne_of_ne hj)) hne
  | command w i u _ hu =>
    obtain ⟨hrb, -⟩ := hu.keeps_host_fields
    exact absurd (by rw [respond_rb, hrb]) hne
  | illegal => exact absurd (by rw [respond_rb]; rfl) hne
  | xformAdvance => exact absurd (by rw [xformAdvance_rb]) hne
  | quiet | writeStatus | writeHeader | writeSource | writeOutput | xformRead | present | sinkRoom =>
    exact absurd rfl hne

theorem MoveEffect.writes_hs {e : Input} {s t : State} (ht : MoveEffect s e t) (hne : t.hs ≠ s.hs) :
    e = .reset ∨ ∃ v, e = .hostWrite (base s + 0x20) .w32 v := by
  cases ht with
  | reset => exact .inl rfl
  | writeHeader v => exact .inr ⟨v, rfl⟩
  | command w i u _ hu =>
    obtain ⟨-, hhs, -⟩ := hu.keeps_host_fields
    exact absurd (by rw [respond_hs, hhs]) hne
  | illegal => exact absurd (respond_hs _ _) hne
  | xformAdvance => exact absurd (xformAdvance_hs _) hne
  | quiet | writeStatus | writeRing | writeSource | writeOutput | xformRead | present | sinkRoom =>
    exact absurd rfl hne

theorem MoveEffect.writes_result {e : Input} {s t : State} (ht : MoveEffect s e t) (hne : t.result ≠ s.result) :
    e = .reset ∨ ∃ w i, e = .hostWrite (base s) .w32 w ∧ decode w = .ok i ∧ t.status = s.status ∧
      (i = .hsize ∨ i = .psize ∨ (∃ d, i = .csize d) ∨ ∃ len off, i = .span len off) := by
  cases ht with
  | reset => exact .inl rfl
  | command w i u hd hu =>
    rw [respond_result] at hne
    obtain ⟨hstatus, hi⟩ := hu.writes_result hne
    exact .inr ⟨w, i, rfl, hd, (respond_status _ _).trans hstatus, hi⟩
  | illegal => exact absurd (respond_result _ _) hne
  | xformAdvance => exact absurd (xformAdvance_result _) hne
  | quiet | writeStatus | writeRing | writeHeader | writeSource | writeOutput | xformRead | present | sinkRoom =>
    exact absurd rfl hne

theorem MoveEffect.writes_sb {e : Input} {s t : State} (ht : MoveEffect s e t) (hne : t.sb ≠ s.sb) :
    e = .reset ∨ (∃ (k : Fin 4) (v : Word), e = .hostWrite (base s + 0x40 + 4 * k) .w32 v) ∨
      ∃ w i, e = .hostWrite (base s) .w32 w ∧ decode w = .ok i ∧
        (i = .sbclr ∨ (∃ size shift, i = .align0 size shift) ∨ (∃ size shift, i = .posoff size shift) ∨
          ∃ outoff srcoff n, i = .merge outoff srcoff n) := by
  cases ht with
  | reset => exact .inl rfl
  | writeSource k v => exact .inr (.inl ⟨k, v, rfl⟩)
  | command w i u hd hu =>
    rw [respond_sb] at hne
    exact .inr (.inr ⟨w, i, rfl, hd, hu.writes_sb hne⟩)
  | illegal => exact absurd (respond_sb _ _) hne
  | xformAdvance => exact absurd (xformAdvance_sb _) hne
  | quiet | writeStatus | writeRing | writeHeader | writeOutput | xformRead | present | sinkRoom =>
    exact absurd rfl hne

theorem MoveEffect.writes_ob {e : Input} {s t : State} (ht : MoveEffect s e t) (hne : t.ob ≠ s.ob) :
    e = .reset ∨ (∃ (k : Fin 4) (v : Word), e = .hostWrite (base s + 0x50 + 4 * k) .w32 v) ∨
      ∃ w i, e = .hostWrite (base s) .w32 w ∧ decode w = .ok i ∧
        (i = .obclr ∨ ∃ outoff srcoff n, i = .merge outoff srcoff n) := by
  cases ht with
  | reset => exact .inl rfl
  | writeOutput k v => exact .inr (.inl ⟨k, v, rfl⟩)
  | command w i u hd hu =>
    rw [respond_ob] at hne
    exact .inr (.inr ⟨w, i, rfl, hd, hu.writes_ob hne⟩)
  | illegal => exact absurd (respond_ob _ _) hne
  | xformAdvance => exact absurd (xformAdvance_ob _) hne
  | quiet | writeStatus | writeRing | writeHeader | writeSource | xformRead | present | sinkRoom =>
    exact absurd rfl hne

/-- The codec and BASE stay in every move, the reset included (10_state.md R32; log 4). -/
theorem MoveEffect.keeps_configuration {e : Input} {s t : State} (ht : MoveEffect s e t) :
    t.codec = s.codec ∧ t.page = s.page := by
  cases ht with
  | command w i u _ hu =>
    obtain ⟨-, -, hcodec, hpage⟩ := hu.keeps_host_fields
    exact ⟨(respond_codec _ _).trans hcodec, (respond_page _ _).trans hpage⟩
  | illegal => exact ⟨respond_codec _ _, respond_page _ _⟩
  | xformAdvance => exact ⟨xformAdvance_codec _, xformAdvance_page _⟩
  | quiet | writeStatus | writeRing | writeHeader | writeSource | writeOutput | xformRead | present | sinkRoom
  | reset => exact ⟨rfl, rfl⟩

theorem step_keeps_configuration {s t : State} (h : step s = .next t) : t.codec = s.codec ∧ t.page = s.page := by
  rcases step_effect h with ⟨packet, rest, -, rfl⟩ | ⟨e, rest, -, ht⟩ | rfl
  · simp
  · exact ht.keeps_configuration
  · exact ⟨rfl, rfl⟩

/-- Settles O57: no COPY writes RB or HS, and of the moves only the two named do. -/
theorem onlyHostAndResetWriteRingAndHeader : Obligations.OnlyHostAndResetWriteRingAndHeader := by
  intro s t h
  constructor
  · intro k hne
    obtain ⟨e, rest, hm, ht⟩ := move_of_changed (·.rb[k]) (by simp) h hne
    exact ⟨e, rest, hm, ht.writes_rb k hne⟩
  · intro hne
    obtain ⟨e, rest, hm, ht⟩ := move_of_changed State.hs (by simp) h hne
    exact ⟨e, rest, hm, ht.writes_hs hne⟩

/-- Settles O58: no COPY writes RESULT, and of the moves only reset and the commands named do. -/
theorem onlySizesAndSpanWriteResult : Obligations.OnlySizesAndSpanWriteResult := by
  intro s t h hne
  obtain ⟨e, rest, hm, ht⟩ := move_of_changed State.result (by simp) h hne
  exact ⟨e, rest, hm, ht.writes_result hne⟩

/-- Settles O59: every move keeps the configuration, and no COPY writes SB or OB. -/
theorem configurationAndBuffersAreHosts : Obligations.ConfigurationAndBuffersAreHosts := by
  intro s t h
  obtain ⟨hcodec, hpage⟩ := step_keeps_configuration h
  refine ⟨hcodec, hpage, fun hne => ?_, fun hne => ?_⟩
  · obtain ⟨e, rest, hm, ht⟩ := move_of_changed State.sb (by simp) h hne
    exact ⟨e, rest, hm, ht.writes_sb hne⟩
  · obtain ⟨e, rest, hm, ht⟩ := move_of_changed State.ob (by simp) h hne
    exact ⟨e, rest, hm, ht.writes_ob hne⟩

/-- Settles O52: the reset state gives the three fields the value 0. -/
theorem resetLeavesStatusResultAndCounterZero : Obligations.ResetLeavesStatusResultAndCounterZero :=
  ⟨rfl, rfl, rfl⟩

end Sys2Proof.Proofs

/-! ## The memory family (20_memory.md): HOST's accesses, inside the window and outside it -/

namespace Sys2Proof.Proofs

open Sys2Proof.Machine Sys2Proof.Safety Sys2Proof.Laws

/-! ### What a bus write does, outcome by outcome -/

/-- A register other than CMD that can be written is written, and the answer is OKAY (20_memory.md R56). -/
theorem busWrite_register {r : Reg} {v : Word} {s s' : State} (hw : writeReg v s r = some s') :
    busWrite (regOffset r) .w32 v s = .next { s' with response := some (.write .okay) } := by
  rw [busWrite, accessedReg_regOffset]
  cases r with
  | cmd | result | ctr | const => cases hw
  | status | rb | hdr | sb | ob => cases hw; rfl

/-- A register that cannot be written answers ERROR (20_memory.md R54); CMD is no such register, it runs a command. -/
theorem busWrite_readOnly {r : Reg} {v : Word} {s : State} (hr : r ≠ .cmd) (hw : writeReg v s r = none) :
    busWrite (regOffset r) .w32 v s = .next { s with response := some (.write .error) } := by
  rw [busWrite, accessedReg_regOffset]
  cases r with
  | cmd => exact absurd rfl hr
  | result | ctr | const => rfl
  | status | rb | hdr | sb | ob => cases hw

/-- A write that reaches no register answers ERROR and runs no command (20_memory.md R52, R53). -/
theorem busWrite_no_register {off : Nat} {width : Width} (v : Word) (s : State) (ha : accessedReg off width = none) :
    busWrite off width v s = .next { s with response := some (.write .error) } := by
  rw [busWrite, ha]

/-- A read that reaches no register answers ERROR with value 0 (20_memory.md R52, R53). -/
theorem busRead_no_register {off : Nat} {width : Width} (s : State) (ha : accessedReg off width = none) :
    busRead off width s = { s with response := some (.read .error 0) } := by
  rw [busRead, ha]

/-- Writing a register touches neither the hold, nor the moves to come, nor BASE. -/
theorem writeReg_frame {r : Reg} {v : Word} {s s' : State} (hw : writeReg v s r = some s') :
    s'.held = s.held ∧ s'.inputs = s.inputs ∧ s'.page = s.page := by
  cases r with
  | cmd | result | ctr | const => cases hw
  | status | rb | hdr | sb | ob => cases hw; exact ⟨rfl, rfl, rfl⟩

/-- HOST's write of a register as the next step (20_memory.md R56). -/
theorem step_write_register {r : Reg} {v : Word} {s s' : State} {rest : List Input}
    (h : HostWriteNext s (regOffset r) v rest) (hw : writeReg v { s with inputs := rest } r = some s') :
    step s = .next { s' with response := some (.write .okay) } := by
  obtain ⟨hheld, hinputs⟩ := h
  rw [step_hostWrite hheld hinputs (regOffset_lt r), busWrite_register hw]

/-- Settles O43: the written register is RBk, SBk or OBk, and a word written to a buffer sets its four bytes. -/
theorem writesReplaceAllThirtyTwoBits : Obligations.WritesReplaceAllThirtyTwoBits := by
  intro s rest k v
  refine ⟨fun h => ?_, fun h => ?_, fun h => ?_⟩
  · exact step_write_register (r := .rb k) h rfl
  · exact ⟨_, step_write_register (r := .sb k) h rfl, rfl, fun i _ => bufGet_bufPutWord s.sb k i v k.isLt⟩
  · exact ⟨_, step_write_register (r := .ob k) h rfl, rfl, fun i _ => bufGet_bufPutWord s.ob k i v k.isLt⟩

/-! ### A read right after a write -/

/-- A register's value does not depend on the response (20_memory.md R55). -/
@[simp] theorem readReg_response (s : State) (o : Option Response) (r : Reg) :
    readReg { s with response := o } r = readReg s r := by
  cases r <;> rfl

/-- A write of a register and then its read: the answer is OKAY with the register's value after the write. -/
theorem run_write_then_read {r : Reg} {v : Word} {s s' : State} {rest : List Input} (hheld : s.held = false)
    (hinputs : s.inputs =
      .hostWrite (base s + regOffset r) .w32 v :: .hostRead (base s + regOffset r) .w32 :: rest)
    (hw : writeReg v { s with inputs := .hostRead (base s + regOffset r) .w32 :: rest } r = some s') :
    Sys2Proof.core.run 2 s = .next { s' with inputs := rest, response := some (.read .okay (readReg s' r)) } := by
  obtain ⟨hheld', hinputs', hpage'⟩ := writeReg_frame hw
  have hwrite : step s = .next { s' with response := some (.write .okay) } := step_write_register ⟨hheld, hinputs⟩ hw
  have hbase : base { s' with response := some (.write .okay) } = base s := congrArg (Config.windowBytes * ·) hpage'
  have hnext : HostReadNext { s' with response := some (.write .okay) } (regOffset r) rest :=
    ⟨hheld'.trans hheld, by rw [hbase]; exact hinputs'⟩
  rw [run_succ 1 hwrite, run_succ 0 (step_read_register r hnext), readReg_response]
  rfl

/-- Settles O44: RBk, SBk and OBk each hold the word written to them. -/
theorem readAfterWriteReturnsTheValue : Obligations.ReadAfterWriteReturnsTheValue := by
  rintro s rest off v ⟨k, hk, rfl | rfl | rfl⟩ hheld hinputs
  · have hread : (s.rb.set k v)[k] = v := Vector.getElem_set_self hk
    exact ⟨_, run_write_then_read (r := .rb ⟨k, hk⟩) hheld hinputs rfl, by rw [readReg, Fin.getElem_fin, hread], rfl⟩
  · have hread : bufWord (bufPutWord s.sb k v) k = v := bufWord_bufPutWord s.sb k v hk
    exact ⟨_, run_write_then_read (r := .sb ⟨k, hk⟩) hheld hinputs rfl, by rw [readReg, hread], rfl⟩
  · have hread : bufWord (bufPutWord s.ob k v) k = v := bufWord_bufPutWord s.ob k v hk
    exact ⟨_, run_write_then_read (r := .ob ⟨k, hk⟩) hheld hinputs rfl, by rw [readReg, hread], rfl⟩

/-! ### Accesses that answer ERROR -/

/-- Every register's offset is a multiple of 4 outside the reserved ranges (10_state.md R34). -/
theorem regOffset_mapped (r : Reg) :
    regOffset r % 4 = 0 ∧ (regOffset r < 0x28 ∨ 0x40 ≤ regOffset r) ∧ regOffset r < 0x60 := by
  cases r with
  | cmd | status | result | ctr | hdr | const => decide
  | rb k | sb k | ob k => simp only [regOffset]; omega

/-- An access of another width, at a misaligned or at a reserved offset reaches no register (20_memory.md R52, R53). -/
theorem accessedReg_none {off : Nat} {width : Width}
    (h : width ≠ .w32 ∨ off % 4 ≠ 0 ∨ (0x28 ≤ off ∧ off < 0x40) ∨ 0x60 ≤ off) : accessedReg off width = none := by
  rw [Option.eq_none_iff_forall_ne_some]
  intro r hr
  obtain ⟨hwidth, rfl⟩ := accessedReg_some hr
  have hmap := regOffset_mapped r
  rcases h with h | h
  · exact h hwidth
  · omega

/-- Settles O45: such an access reaches no register, or a register that cannot be written. -/
theorem badAccessesAnswerErrorOnly : Obligations.BadAccessesAnswerErrorOnly := by
  intro s rest off width v hheld hoff
  refine ⟨fun hbad => ⟨fun hinputs => ?_, fun hinputs => ?_⟩, fun hro hinputs => ?_⟩
  · rw [step_hostRead hheld hinputs hoff, busRead_no_register _ (accessedReg_none hbad)]
  · rw [step_hostWrite hheld hinputs hoff, busWrite_no_register _ _ (accessedReg_none hbad)]
  · rw [step_hostWrite hheld hinputs hoff]
    by_cases hwidth : width = .w32
    · subst hwidth
      rcases hro with rfl | rfl | rfl
      · exact busWrite_readOnly (r := .result) (by decide) rfl
      · exact busWrite_readOnly (r := .ctr) (by decide) rfl
      · exact busWrite_readOnly (r := .const) (by decide) rfl
    · exact busWrite_no_register _ _ (accessedReg_none (.inl hwidth))

/-! ### Accesses outside the window -/

/-- BASE is a multiple of 256 (20_memory.md R61). -/
theorem base_mod_window (s : State) : base s % 256 = 0 := Nat.mul_mod_right _ _

/-- An address below BASE or past the window has no offset (20_memory.md R51). -/
theorem windowOffset_none {addr : Nat} {s : State} (h : addr < base s ∨ base s + 256 ≤ addr) :
    windowOffset addr s = none := by
  unfold windowOffset Config.windowBytes
  exact if_neg (by omega)

/-- Settles O46: an access without an offset in the window is dropped. -/
theorem accessesOutsideTheWindowAreNotSeen : Obligations.AccessesOutsideTheWindowAreNotSeen := by
  intro s rest addr width v
  refine ⟨base_mod_window s, fun hheld hout => ?_⟩
  have hnone : windowOffset addr { s with inputs := rest } = none := windowOffset_none hout
  have hmove : ∀ e, s.inputs = e :: rest → step s = runInput e { s with inputs := rest } := fun e hinputs =>
    step_move (by rw [hheld, Bool.false_and]) (by rw [hheld, hinputs, nextInput_free])
  refine ⟨fun hinputs => ?_, fun hinputs => ?_⟩
  · rw [hmove _ hinputs, runInput, hnone]
  · rw [hmove _ hinputs, runInput, hnone]

end Sys2Proof.Proofs

/-! ## The encoding family (30_encoding.md): decoder, encoder and opcode map agree, and CMD runs what it decodes -/

namespace Sys2Proof.Proofs

open Sys2Proof.Machine Sys2Proof.Safety Sys2Proof.Laws
open Sys2Proof.Laws.OpcodeField (opcode bitField_ofNat)

/-! ### What the decoder accepts, said once -/

/-- The bits 23:0 of `w` are those of `i` in its format (30_encoding.md R81): the bits marked 0 are 0 and the others
hold the operands. -/
def HoldsOperands (w : Word) : Instr → Prop
  | .kreset | .hsize | .psize | .sbclr | .obclr | .copy => bitField w 23 0 = 0
  | .csize d => bitField w 23 1 = 0 ∧ (bitField w 0 0 == 1) = d
  | .align0 size shift | .posoff size shift =>
    (bitField w 23 13 = 0 ∧ bitField w 7 3 = 0) ∧ bitField w 12 8 = size ∧ bitField w 2 0 = shift
  | .merge outoff srcoff n =>
    (bitField w 19 15 = 0 ∧ bitField w 7 7 = 0) ∧
      bitField w 6 0 = outoff ∧ bitField w 14 8 = srcoff ∧ bitField w 23 20 = n
  | .span len off =>
    (bitField w 23 16 = 0 ∧ bitField w 7 7 = 0) ∧ bitField w 15 8 = len ∧ bitField w 6 0 = off

theorem formatZ_eq_ok {w : Word} {j i : Instr} : formatZ w j = .ok i ↔ bitField w 23 0 = 0 ∧ j = i := by
  unfold formatZ; split <;> simp [*]

theorem formatD_eq_ok {w : Word} {mk : Bool → Instr} {i : Instr} :
    formatD w mk = .ok i ↔ bitField w 23 1 = 0 ∧ mk (bitField w 0 0 == 1) = i := by
  unfold formatD; split <;> simp [*]

theorem formatS_eq_ok {w : Word} {mk : Nat → Nat → Instr} {i : Instr} :
    formatS w mk = .ok i ↔
      (bitField w 23 13 = 0 ∧ bitField w 7 3 = 0) ∧ mk (bitField w 12 8) (bitField w 2 0) = i := by
  unfold formatS; split <;> simp [*]

theorem formatM_eq_ok {w : Word} {mk : Nat → Nat → Nat → Instr} {i : Instr} :
    formatM w mk = .ok i ↔
      (bitField w 19 15 = 0 ∧ bitField w 7 7 = 0) ∧
        mk (bitField w 6 0) (bitField w 14 8) (bitField w 23 20) = i := by
  unfold formatM; split <;> simp [*]

theorem formatN_eq_ok {w : Word} {mk : Nat → Nat → Instr} {i : Instr} :
    formatN w mk = .ok i ↔
      (bitField w 23 16 = 0 ∧ bitField w 7 7 = 0) ∧ mk (bitField w 15 8) (bitField w 6 0) = i := by
  unfold formatN; split <;> simp [*]

/-- A word that has an instruction's opcode and holds its operands decodes to it (30_encoding.md R81, R84). -/
theorem decode_of_holdsOperands {w : Word} {i : Instr} (hop : bitField w 31 24 = opcode i)
    (h : HoldsOperands w i) : decode w = .ok i := by
  rw [decode, hop]
  cases i with
  | kreset | hsize | psize | sbclr | obclr | copy => exact formatZ_eq_ok.mpr ⟨h, rfl⟩
  | csize d => exact formatD_eq_ok.mpr ⟨h.1, congrArg _ h.2⟩
  | align0 size shift | posoff size shift =>
    obtain ⟨hzero, rfl, rfl⟩ := h
    exact formatS_eq_ok.mpr ⟨hzero, rfl⟩
  | merge outoff srcoff n =>
    obtain ⟨hzero, rfl, rfl, rfl⟩ := h
    exact formatM_eq_ok.mpr ⟨hzero, rfl⟩
  | span len off =>
    obtain ⟨hzero, rfl, rfl⟩ := h
    exact formatN_eq_ok.mpr ⟨hzero, rfl⟩

/-- A word decodes to nothing else (30_encoding.md R87, R88). -/
theorem holdsOperands_of_decode {w : Word} {i : Instr} (h : decode w = .ok i) :
    bitField w 31 24 = opcode i ∧ HoldsOperands w i := by
  unfold decode at h
  split at h
  case h_4 hop =>
    obtain ⟨hzero, rfl⟩ := formatD_eq_ok.mp h
    exact ⟨hop, hzero, rfl⟩
  case h_5 hop | h_6 hop =>
    obtain ⟨hzero, rfl⟩ := formatS_eq_ok.mp h
    exact ⟨hop, hzero, rfl, rfl⟩
  case h_7 hop =>
    obtain ⟨hzero, rfl⟩ := formatM_eq_ok.mp h
    exact ⟨hop, hzero, rfl, rfl, rfl⟩
  case h_8 hop =>
    obtain ⟨hzero, rfl⟩ := formatN_eq_ok.mp h
    exact ⟨hop, hzero, rfl, rfl⟩
  case h_12 => cases h
  all_goals
    obtain ⟨hzero, rfl⟩ := formatZ_eq_ok.mp h
    exact ⟨‹_›, hzero⟩

theorem decode_eq_ok {w : Word} {i : Instr} :
    decode w = .ok i ↔ bitField w 31 24 = opcode i ∧ HoldsOperands w i :=
  ⟨holdsOperands_of_decode, fun h => decode_of_holdsOperands h.1 h.2⟩

/-! ### The encoder -/

/-- The encoder puts the opcode in bits 31:24 of every word (30_encoding.md R80). -/
theorem bitField_encode_opcode (i : Instr) : OpcodeField.Statement i := by
  cases i with
  | kreset => exact OpcodeField.kreset
  | hsize => exact OpcodeField.hsize
  | psize => exact OpcodeField.psize
  | csize d => exact OpcodeField.csize d
  | align0 size shift => exact OpcodeField.align0 size shift
  | posoff size shift => exact OpcodeField.posoff size shift
  | merge outoff srcoff n => exact OpcodeField.merge outoff srcoff n
  | span len off => exact OpcodeField.span len off
  | sbclr => exact OpcodeField.sbclr
  | obclr => exact OpcodeField.obclr
  | copy => exact OpcodeField.copy

/-- The encoder writes each operand into its field and 0 into the other bits (30_encoding.md R81). -/
theorem encode_holdsOperands {i : Instr} (hwf : i.wellFormed = true) : HoldsOperands (encode i) i := by
  cases i with
  | kreset | hsize | psize | sbclr | obclr | copy => rfl
  | csize d => cases d <;> exact ⟨rfl, rfl⟩
  | align0 size shift | posoff size shift | merge outoff srcoff n | span len off =>
    simp only [Instr.wellFormed, Bool.and_eq_true, decide_eq_true_eq] at hwf
    simp only [HoldsOperands, encode]
    repeat rw [bitField_ofNat _ _ _ (by omega)]
    omega

/-- A field holds a number of its width. -/
theorem bitField_lt (w : Word) (hi lo : Nat) : bitField w hi lo < 2 ^ (hi + 1 - lo) :=
  Nat.mod_lt _ (Nat.two_pow_pos _)

/-- The operand `d` of format D is bit 0 (30_encoding.md R81). -/
theorem toNat_bit_zero (w : Word) : (bitField w 0 0 == 1).toNat = bitField w 0 0 := by
  have hbit : bitField w 0 0 = 0 ∨ bitField w 0 0 = 1 := Nat.mod_two_eq_zero_or_one _
  rcases hbit with h | h <;> rw [h] <;> rfl

theorem HoldsOperands.wellFormed {w : Word} {i : Instr} (h : HoldsOperands w i) : i.wellFormed = true := by
  cases i with
  | kreset | hsize | psize | csize | sbclr | obclr | copy => rfl
  | align0 size shift | posoff size shift =>
    obtain ⟨-, rfl, rfl⟩ := h
    simpa only [Instr.wellFormed, Bool.and_eq_true, decide_eq_true_eq] using ⟨bitField_lt w 12 8, bitField_lt w 2 0⟩
  | merge outoff srcoff n =>
    obtain ⟨-, rfl, rfl, rfl⟩ := h
    simpa only [Instr.wellFormed, Bool.and_eq_true, decide_eq_true_eq] using
      ⟨⟨bitField_lt w 6 0, bitField_lt w 14 8⟩, bitField_lt w 23 20⟩
  | span len off =>
    obtain ⟨-, rfl, rfl⟩ := h
    simpa only [Instr.wellFormed, Bool.and_eq_true, decide_eq_true_eq] using ⟨bitField_lt w 15 8, bitField_lt w 6 0⟩

/-- The opcode, the operands and the bits that are 0 are all of the word (30_encoding.md R81). -/
theorem HoldsOperands.encode_eq {w : Word} {i : Instr} (hop : bitField w 31 24 = opcode i)
    (h : HoldsOperands w i) : encode i = w := by
  have hw : w.toNat < 2 ^ 32 := w.isLt
  apply BitVec.eq_of_toNat_eq
  cases i with
  | kreset | hsize | psize | sbclr | obclr | copy =>
    simp only [HoldsOperands, opcode, bitField] at h hop
    simp only [encode, BitVec.reduceToNat]
    omega
  | csize d =>
    obtain ⟨hzero, rfl⟩ := h
    simp only [opcode, bitField] at hzero hop
    rw [encode, BitVec.toNat_ofNat, toNat_bit_zero, bitField]
    omega
  | align0 size shift | posoff size shift | merge outoff srcoff n | span len off =>
    simp only [HoldsOperands, opcode, bitField] at h hop
    simp only [encode, BitVec.toNat_ofNat]
    omega

/-- Settles O1: the encoder writes the opcode and the operands where the decoder reads them. -/
theorem decodeOfEncodeIsTheInstruction : Obligations.DecodeOfEncodeIsTheInstruction :=
  fun i hwf => decode_of_holdsOperands (bitField_encode_opcode i hwf) (encode_holdsOperands hwf)

/-- Settles O2: what the decoder has read of the word is all of it. -/
theorem encodeOfDecodeIsTheWord : Obligations.EncodeOfDecodeIsTheWord := by
  intro w i h
  obtain ⟨hop, hops⟩ := holdsOperands_of_decode h
  exact ⟨hops.wellFormed, hops.encode_eq hop⟩

/-- Settles O4: eight words are what the assembler writes for the commands; two have an opcode or a bit of none. -/
theorem wordsFromTheFormatsDecode : Obligations.WordsFromTheFormatsDecode :=
  have assembled := decodeOfEncodeIsTheInstruction
  ⟨assembled .kreset rfl, assembled (.csize true) rfl, assembled (.align0 3 4) rfl, assembled (.posoff 16 5) rfl,
    assembled (.merge 63 0 8) rfl, assembled (.merge 75 46 1) rfl, assembled (.span 255 127) rfl,
    assembled .copy rfl, by decide, by decide⟩

/-! ### Masks -/

/-- Two words have equal fields exactly when they agree on the field's bits. -/
theorem bitField_eq_iff {w v : Word} {hi lo : Nat} :
    bitField w hi lo = bitField v hi lo ↔ ∀ k, lo ≤ k → k ≤ hi → w.getLsbD k = v.getLsbD k := by
  have bit : ∀ (u : Word) (k : Nat),
      (bitField u hi lo).testBit k = (decide (k < hi + 1 - lo) && u.getLsbD (k + lo)) := by
    intro u k
    rw [bitField, Nat.testBit_mod_two_pow, Nat.testBit_div_two_pow, BitVec.testBit_toNat]
  constructor
  · intro h k hlo hhi
    have hk := congrArg (Nat.testBit · (k - lo)) h
    simpa only [bit, Nat.sub_add_cancel hlo, decide_eq_true (show k - lo < hi + 1 - lo by omega), Bool.true_and]
      using hk
  · intro h
    apply Nat.eq_of_testBit_eq
    intro k
    rw [bit, bit]
    by_cases hk : k < hi + 1 - lo
    · rw [h (k + lo) (by omega) (by omega)]
    · rw [decide_eq_false hk, Bool.false_and, Bool.false_and]

/-- Two words agree under a mask exactly when they agree on the mask's bits. -/
theorem and_eq_iff {w v m : Word} (hv : v &&& m = v) :
    w &&& m = v ↔ ∀ k < 32, m.getLsbD k = true → w.getLsbD k = v.getLsbD k := by
  rw [BitVec.eq_of_getLsbD_eq_iff]
  refine forall₂_congr fun k _ => ?_
  have hvk : (v.getLsbD k && m.getLsbD k) = v.getLsbD k := by rw [← BitVec.getLsbD_and, hv]
  rw [BitVec.getLsbD_and]
  cases hmk : m.getLsbD k with
  | true => simp
  | false =>
    rw [hmk, Bool.and_false] at hvk
    simp [← hvk]

/-- A word is `v` under a mask made of the fields `[hi:lo]` exactly when each field has `v`'s number `x` in it
(30_encoding.md R84). -/
theorem and_mask_eq_iff {w v m : Word} (fields : List (Nat × Nat × Nat)) (hv : v &&& m = v := by decide)
    (hm : ∀ k < 32, m.getLsbD k = true ↔ ∃ f ∈ fields, f.2.1 ≤ k ∧ k ≤ f.1 := by decide)
    (hf : ∀ f ∈ fields, f.1 < 32 ∧ bitField v f.1 f.2.1 = f.2.2 := by decide) :
    w &&& m = v ↔ ∀ f ∈ fields, bitField w f.1 f.2.1 = f.2.2 := by
  rw [and_eq_iff hv]
  constructor
  · rintro h ⟨hi, lo, x⟩ hmem
    obtain ⟨hlt, hx⟩ := hf _ hmem
    refine (bitField_eq_iff.mpr fun k hlo hhi => ?_).trans hx
    have hk : k < 32 := Nat.lt_of_le_of_lt hhi hlt
    exact h k hk ((hm k hk).mpr ⟨_, hmem, hlo, hhi⟩)
  · intro h k hk hmk
    obtain ⟨f, hmem, hlo, hhi⟩ := (hm k hk).mp hmk
    exact bitField_eq_iff.mp ((h f hmem).trans (hf f hmem).2.symm) k hlo hhi

/-- A word decodes to a well-formed instruction exactly when it is the assembler's word (30_encoding.md R85). -/
theorem decode_eq_ok_iff_eq_encode {w : Word} {i : Instr} (hwf : i.wellFormed = true) :
    decode w = .ok i ↔ w = encode i := by
  constructor
  · exact fun h => (encodeOfDecodeIsTheWord w i h).2.symm
  · rintro rfl
    exact decodeOfEncodeIsTheInstruction i hwf

/-- A row of format Z fixes the whole word: its mask is all ones (30_encoding.md R84). -/
theorem decode_eq_ok_iff_and_allOnes {w : Word} {i : Instr} (hwf : i.wellFormed = true) :
    decode w = .ok i ↔ w &&& 0xFFFFFFFF = encode i := by
  rw [decode_eq_ok_iff_eq_encode hwf, show w &&& 0xFFFFFFFF = w from BitVec.and_allOnes]

/-- Settles O3: a mask of format Z fixes the word; each other mask covers the opcode and the bits its format marks 0. -/
theorem decodingFollowsMatchAndMask : Obligations.DecodingFollowsMatchAndMask := by
  intro w
  refine ⟨decode_eq_ok_iff_and_allOnes rfl, decode_eq_ok_iff_and_allOnes rfl, decode_eq_ok_iff_and_allOnes rfl,
    ?csize, ?align0, ?posoff, ?merge, ?span, decode_eq_ok_iff_and_allOnes rfl, decode_eq_ok_iff_and_allOnes rfl,
    decode_eq_ok_iff_and_allOnes rfl⟩
  case csize =>
    rw [and_mask_eq_iff [(31, 24, 0x22), (23, 1, 0)]]
    simp [decode_eq_ok, HoldsOperands, opcode]
  case align0 =>
    rw [and_mask_eq_iff [(31, 24, 0x30), (23, 13, 0), (7, 3, 0)]]
    simp [decode_eq_ok, HoldsOperands, opcode]
  case posoff =>
    rw [and_mask_eq_iff [(31, 24, 0x31), (23, 13, 0), (7, 3, 0)]]
    simp [decode_eq_ok, HoldsOperands, opcode]
  case merge =>
    rw [and_mask_eq_iff [(31, 24, 0x32), (19, 15, 0), (7, 7, 0)]]
    simp [decode_eq_ok, HoldsOperands, opcode]
  case span =>
    rw [and_mask_eq_iff [(31, 24, 0x33), (23, 16, 0), (7, 7, 0)]]
    simp [decode_eq_ok, HoldsOperands, opcode]

/-! ### A step that runs a command -/

/-- HOST's write of a command to CMD, when it is next: the command runs with the move gone and the access unanswered,
and is then answered (30_encoding.md R80; 20_memory.md R56). -/
theorem step_command {s : State} {w : Word} {i : Instr} {rest : List Input} (h : HostWriteNext s 0x00 w rest)
    (hd : decode w = .ok i) :
    step s = respondTo (.write .okay) (exec i { s with inputs := rest, response := none }) := by
  obtain ⟨hheld, hinputs⟩ := h
  rw [step_hostWrite hheld hinputs (by decide), busWrite, show accessedReg 0x00 .w32 = some .cmd from rfl]
  simp only [runCommand, hd]

/-- Settles O6: the answer is given to a next state that is no hold, and a fault is passed on. -/
theorem stepRunsTheDecodedCommand : Obligations.StepRunsTheDecodedCommand := by
  intro s w i rest h hd
  rw [step_command h hd]
  refine ⟨fun t ht => ?_, fun f hf => ?_⟩
  · rw [ht]; rfl
  · rw [hf]; rfl

end Sys2Proof.Proofs

/-! ## The keystream family (40_keystream.md): KRESET and XFORM's port, and who writes CTR -/

namespace Sys2Proof.Proofs

open Sys2Proof.Machine Sys2Proof.Safety Sys2Proof.Laws

/-! ### Who writes CTR -/

/-- KRESET is the only command that changes CTR (40_keystream.md R101). -/
theorem CommandEffect.writes_ctr {i : Instr} {s u : State} (hu : CommandEffect s i u) (hne : u.ctr ≠ s.ctr) :
    i = .kreset := by
  cases hu with
  | kreset => rfl
  | merge => exact absurd (mergeAt_ctr _ _ _ _) hne
  | copy => exact absurd (copyInto_ctr _ _ _ _) hne
  | unchanged | fault | result | source | obclr => exact absurd rfl hne

/-- The word of KRESET is the only one that decodes to it (40_keystream.md R100). -/
theorem decode_eq_kreset {w : Word} : decode w = .ok .kreset ↔ w = 0x10000000 :=
  decode_eq_ok_iff_eq_encode rfl

theorem MoveEffect.writes_ctr {e : Input} {s t : State} (ht : MoveEffect s e t) (hne : t.ctr ≠ s.ctr) :
    e = .xformAdvance ∨ e = .reset ∨ e = .hostWrite (base s) .w32 0x10000000 := by
  cases ht with
  | xformAdvance => exact .inl rfl
  | reset => exact .inr (.inl rfl)
  | command w i u hd hu =>
    rw [respond_ctr] at hne
    obtain rfl := hu.writes_ctr hne
    exact .inr (.inr (by rw [decode_eq_kreset.mp hd]))
  | illegal => exact absurd (respond_ctr _ _) hne
  | quiet | writeStatus | writeRing | writeHeader | writeSource | writeOutput | xformRead | present | sinkRoom =>
    exact absurd rfl hne

/-- Settles O10: no COPY writes CTR, and of the moves only the advance, reset and KRESET's word do. -/
theorem onlyKresetAdvanceAndResetWriteTheCounter : Obligations.OnlyKresetAdvanceAndResetWriteTheCounter := by
  intro s t h hne
  obtain ⟨e, rest, hm, ht⟩ := move_of_changed State.ctr (by simp) h hne
  exact ⟨e, rest, hm, ht.writes_ctr hne⟩

/-! ### XFORM's port and KRESET -/

/-- The move that is next is the one the step takes (70_reset_and_hazards.md R196). -/
theorem step_of_moveNext {s : State} {e : Input} {rest : List Input} (h : MoveNext s e rest) :
    step s = runInput e { s with inputs := rest } :=
  step_move h.1 h.2

/-- An advance from 0xFFFFFFFF wraps and sets CTRWRAP (40_keystream.md R101). -/
theorem xformAdvance_of_wrap {s : State} (h : s.ctr = 0xFFFFFFFF) :
    xformAdvance s = { s with ctr := 0, status := s.status ||| 0x80 } :=
  if_pos h

/-- An advance from any other value adds 1 (40_keystream.md R101). -/
theorem xformAdvance_of_no_wrap {s : State} (h : s.ctr ≠ 0xFFFFFFFF) :
    xformAdvance s = { s with ctr := s.ctr + 1 } :=
  if_neg h

/-- Settles O8: the step is the advance, at the wrap or below it; a command that changes CTR is KRESET. -/
theorem xformAdvanceAddsOneOrWraps : Obligations.XformAdvanceAddsOneOrWraps := by
  refine ⟨fun s rest hm => ⟨fun hwrap => ?_, fun hwrap => ?_⟩, fun i s t h hi => ?_⟩
  · rw [step_of_moveNext hm, runInput, xformAdvance_of_wrap (s := { s with inputs := rest }) hwrap]
  · rw [step_of_moveNext hm, runInput, xformAdvance_of_no_wrap (s := { s with inputs := rest }) hwrap]
  · by_contra hne
    exact hi ((exec_effect h).writes_ctr hne)

/-- Settles O9: the step is the read, which latches what XFORM sees. -/
theorem xformReadSeesCounterAndRing : Obligations.XformReadSeesCounterAndRing := by
  intro s rest hm
  rw [step_of_moveNext hm, runInput, xformRead]

/-- KRESET's opcode with any other bit set is a reserved-bit error (30_encoding.md R88). -/
theorem decode_kreset_reservedBit {w : Word} (hop : bitField w 31 24 = 0x10) (hne : w ≠ 0x10000000) :
    decode w = .error (.reservedBit 0x10) := by
  have hz : bitField w 23 0 ≠ 0 := fun hz => hne (decode_eq_kreset.mp (decode_of_holdsOperands hop hz))
  rw [decode, hop]
  exact (if_neg hz).trans (by rw [hop])

/-- Settles O7: the decoding is the format's, and KRESET writes CTR whatever it was. -/
theorem kresetSetsTheCounterToZero : Obligations.KresetSetsTheCounterToZero :=
  ⟨decode_eq_kreset.mpr rfl, fun _ => decode_kreset_reservedBit, fun _ => ⟨rfl, rfl⟩⟩

end Sys2Proof.Proofs

/-! ## The header family (41_header.md): the header load, HSIZE, PSIZE, CSIZE and the content-size law -/

namespace Sys2Proof.Proofs

open Sys2Proof.Machine Sys2Proof.Safety Sys2Proof.Laws

/-! ### The header load -/

/-- HDR read after it was loaded is the written word with bits 7:0 at 0 (41_header.md R110; 20_memory.md R55). -/
theorem headerWord_loadHeader (v : Word) (s : State) : headerWord (loadHeader v s).hs = v &&& 0xFFFFFF00 := by
  have hmask : (0xFFFFFF00 : Word) = BitVec.allOnes 24 ++ (0 : Byte) := rfl
  apply BitVec.eq_of_getLsbD_eq
  intro i hi
  simp only [headerWord, loadHeader_hs, wordByte, hmask, BitVec.getLsbD_and, BitVec.getLsbD_append,
    BitVec.getLsbD_extractLsb', BitVec.getLsbD_allOnes]
  split_ifs
  · simp
  all_goals
    rw [decide_eq_true (by omega), decide_eq_true (by omega), Bool.true_and, Bool.and_true]
    congr 1
    omega

/-- Settles O12: the step is the write of register HDR, and what HDR then reads does not depend on the response. -/
theorem headerLoadReplacesThreeBytes : Obligations.HeaderLoadReplacesThreeBytes := by
  intro s v rest h
  have hread := headerWord_loadHeader v { s with inputs := rest }
  exact ⟨_, step_write_register (r := .hdr) h rfl, rfl, rfl, rfl, rfl, hread⟩

/-! ### The size commands -/

/-- Settles O13: the word is the assembler's, and HSIZE writes RESULT whatever the codec answers. -/
theorem hsizeReturnsTheHeaderSize : Obligations.HsizeReturnsTheHeaderSize :=
  ⟨decodeOfEncodeIsTheInstruction .hsize rfl, fun _ => rfl⟩

/-- Settles O14: the word is the assembler's, and PSIZE writes RESULT whatever the codec answers. -/
theorem psizeReturnsThePacketSize : Obligations.PsizeReturnsThePacketSize :=
  ⟨decodeOfEncodeIsTheInstruction .psize rfl, fun _ => rfl⟩

/-- CSIZE of a packet at least as long as its header writes RESULT (41_header.md R114). -/
theorem exec_csize_of_le {d : Bool} {s : State} (h : headerSize s.codec s.hs ≤ packetSize s.codec s.hs) :
    exec (.csize d) s = .next (setResult (packetSize s.codec s.hs - headerSize s.codec s.hs + d.toNat) s) :=
  congrArg _ (if_neg (Nat.not_lt.mpr h))

/-- CSIZE of a packet shorter than its header raises SIZE, whatever `d` is (41_header.md R114). -/
theorem exec_csize_of_lt {d : Bool} {s : State} (h : packetSize s.codec s.hs < headerSize s.codec s.hs) :
    exec (.csize d) s = .next (setFlag .size s) :=
  congrArg _ (if_pos h)

/-- Settles O15: the test compares the codec's two answers, before `d` is added. -/
theorem csizeReturnsContentSizeOrRaisesSize : Obligations.CsizeReturnsContentSizeOrRaisesSize := by
  refine ⟨fun d => ?_, fun d s => ⟨exec_csize_of_le, exec_csize_of_lt⟩⟩
  have hword : 0x22000000 + BitVec.ofNat 32 d.toNat = encode (.csize d) := (BitVec.ofNat_add _ _).symm
  rw [hword]
  exact decodeOfEncodeIsTheInstruction (.csize d) rfl

/-- The content size fits RESULT for either `d`, since `psz` is below 65536 (41_header.md R111 (c)). -/
theorem setResult_contentSize_toNat (d : Bool) (s : State) :
    (setResult (packetSize s.codec s.hs - headerSize s.codec s.hs + d.toNat) s).result.toNat =
      packetSize s.codec s.hs - headerSize s.codec s.hs + d.toNat := by
  have hp := packetSize_lt s.codec s.hs
  have hd := d.toNat_le
  rw [setResult_result, BitVec.toNat_ofNat, Nat.mod_eq_of_lt (by omega)]

/-- Settles O16: the four numbers are R114's difference; in general both forms take the same branch of the test. -/
theorem contentSizeLaw : Obligations.ContentSizeLaw := by
  refine ⟨fun s d hp hh => ?_, fun s d hp hh => ?_, fun s => ?_⟩
  · rw [exec_csize_of_le (by omega), hp, hh]
    cases d <;> rfl
  · rw [exec_csize_of_le (by omega), hp, hh]
    cases d <;> rfl
  · rcases Nat.lt_or_ge (packetSize s.codec s.hs) (headerSize s.codec s.hs) with hlt | hle
    · exact ⟨_, _, exec_csize_of_lt hlt, exec_csize_of_lt hlt, rfl, fun hle => absurd hlt (Nat.not_lt.mpr hle)⟩
    · refine ⟨_, _, exec_csize_of_le hle, exec_csize_of_le hle, rfl, fun _ => ?_⟩
      rw [setResult_contentSize_toNat, setResult_contentSize_toNat]
      rfl

end Sys2Proof.Proofs

/-! ## The packer family (42_packer.md): the shifts, the merge, the span and the clears -/

namespace Sys2Proof.Proofs

open Sys2Proof.Machine Sys2Proof.Safety Sys2Proof.Laws

/-! ### The shifts, byte by byte (42_packer.md section 1) -/

/-- ALIGN0 of a size in its domain, whatever the shift: with 0 `alignToZero` does nothing (42_packer.md R120, R126). -/
theorem exec_align0 {size : Nat} (shift : Nat) (s : State) (h1 : 1 ≤ size) (h16 : size ≤ 16) :
    exec (.align0 size shift) s = .next { s with sb := alignToZero size shift s.sb } := by
  rw [exec, execAlign0]
  split_ifs with h0 hdom
  · rw [h0, alignToZero_zero]
  · rfl
  · exact absurd (by simp [sizeInDomain, h1, h16]) hdom

/-- POSOFF of a size in its domain, whatever the shift (42_packer.md R123, R126). -/
theorem exec_posoff {size : Nat} (shift : Nat) (s : State) (h1 : 1 ≤ size) (h16 : size ≤ 16) :
    exec (.posoff size shift) s = .next { s with sb := positionAtOffset size shift s.sb } := by
  rw [exec, execPosoff]
  split_ifs with h0 hdom
  · rw [h0, positionAtOffset_zero]
  · rfl
  · exact absurd (by simp [sizeInDomain, h1, h16]) hdom

/-- Settles O17: the shift is tested before the size. -/
theorem shiftByZeroIsANoOp : Obligations.ShiftByZeroIsANoOp :=
  fun _ _ _ => ⟨rfl, rfl⟩

/-- Settles O18: ALIGN0's loop writes each byte from old ones only. -/
theorem align0ShiftsEveryByteFromTheOldOnes : Obligations.Align0ShiftsEveryByteFromTheOldOnes :=
  fun _ shift s h1 h16 h0 _ => ⟨_, exec_align0 shift s h1 h16, rfl,
    fun j _ => bufGet_alignToZero _ shift s.sb j h1 h16 (Nat.ne_of_gt h0)⟩

/-- Settles O19: POSOFF's loop writes each byte from old ones only. -/
theorem posoffShiftsEveryByteFromTheOldOnes : Obligations.PosoffShiftsEveryByteFromTheOldOnes :=
  fun _ shift s h1 h16 h0 _ => ⟨_, exec_posoff shift s h1 h16, rfl,
    fun j _ => bufGet_positionAtOffset _ shift s.sb j h1 h16 (Nat.ne_of_gt h0)⟩

/-! ### The shifts, bit by bit -/

theorem exists_byte_bit (k : Nat) : ∃ j r, r < 8 ∧ k = 8 * j + r :=
  ⟨k / 8, k % 8, Nat.mod_lt k (by decide), (Nat.div_add_mod k 8).symm⟩

/-- A left shift of one byte moves its buffer bits to lower indexes (00_scope.md R11, R12). -/
theorem getLsbD_byteShl (b : Buffer) (j : Nat) {r s : Nat} (hr : r < 8) :
    (byteShl (bufGet b j) s).getLsbD (7 - r) = (decide (r + s < 8) && bufBit b (8 * j + (r + s))) := by
  rw [byteShl, BitVec.getLsbD_shiftLeft]
  by_cases h : r + s < 8
  · rw [bufBit_byte _ _ _ h, decide_eq_true h, decide_eq_true (by omega), decide_eq_false (by omega),
      show 7 - r - s = 7 - (r + s) by omega]
    rfl
  · rw [decide_eq_false h, decide_eq_true (show 7 - r < s by omega)]
    simp

/-- A right shift of one byte moves its buffer bits to higher indexes (00_scope.md R11, R12). -/
theorem getLsbD_byteShr (b : Buffer) (j : Nat) {r s : Nat} (hr : r < 8) :
    (byteShr (bufGet b j) s).getLsbD (7 - r) = (decide (s ≤ r) && bufBit b (8 * j + (r - s))) := by
  rw [byteShr, BitVec.getLsbD_ushiftRight]
  by_cases h : s ≤ r
  · rw [bufBit_byte _ _ _ (by omega), decide_eq_true h, Bool.true_and, show s + (7 - r) = 7 - (r - s) by omega]
  · rw [decide_eq_false h, Bool.false_and, BitVec.getLsbD_of_ge _ _ (by omega)]

/-- The byte that both shift loops make of two neighbours holds the eight buffer bits from bit `s` of the first on. -/
theorem getLsbD_straddle (b : Buffer) (j : Nat) {r s : Nat} (hr : r < 8) (hs : s ≤ 8) :
    (byteShl (bufGet b j) s ||| byteShr (bufGet b (j + 1)) (8 - s)).getLsbD (7 - r) = bufBit b (8 * j + (r + s)) := by
  rw [BitVec.getLsbD_or, getLsbD_byteShl _ _ hr, getLsbD_byteShr _ _ hr]
  by_cases h : r + s < 8
  · rw [decide_eq_true h, decide_eq_false (by omega), Bool.true_and, Bool.false_and, Bool.or_false]
  · rw [decide_eq_false h, decide_eq_true (by omega), Bool.true_and, Bool.false_and, Bool.false_or]
    congr 1
    omega

/-- ALIGN0 on the buffer's bit string: the region loses its first `shift` bits and gets zeros at its end
(42_packer.md R122). -/
theorem bufBit_alignToZero {size shift : Nat} (b : Buffer) (k : Nat) (h1 : 1 ≤ size) (h16 : size ≤ 16)
    (h7 : shift ≤ 7) :
    bufBit (alignToZero size shift b) k =
      if k < 8 * size - shift then bufBit b (k + shift) else if k < 8 * size then false else bufBit b k := by
  rcases Nat.eq_zero_or_pos shift with rfl | h0
  · rw [Nat.sub_zero, alignToZero_zero]
    split_ifs <;> rfl
  obtain ⟨j, r, hr, rfl⟩ := exists_byte_bit k
  rw [bufBit_byte _ _ _ hr, bufGet_alignToZero _ _ _ _ h1 h16 (Nat.ne_of_gt h0)]
  rcases Nat.lt_trichotomy (j + 1) size with hj | hj | hj
  · rw [if_pos hj, if_pos (by omega), getLsbD_straddle _ _ hr (by omega), Nat.add_assoc]
  · rw [if_neg (by omega), if_pos hj, getLsbD_byteShl _ _ hr]
    by_cases hlast : r + shift < 8
    · rw [if_pos (by omega), decide_eq_true hlast, Bool.true_and, Nat.add_assoc]
    · rw [if_neg (by omega), if_pos (by omega), decide_eq_false hlast, Bool.false_and]
  · rw [if_neg (by omega), if_neg (by omega), if_neg (by omega), if_neg (by omega), bufBit_byte _ _ _ hr]

/-- POSOFF on the buffer's bit string: the region gets `shift` zeros at its start and loses its last bits
(42_packer.md R125). -/
theorem bufBit_positionAtOffset {size shift : Nat} (b : Buffer) (k : Nat) (h1 : 1 ≤ size) (h16 : size ≤ 16)
    (h7 : shift ≤ 7) :
    bufBit (positionAtOffset size shift b) k =
      if k < shift then false else if k < 8 * size then bufBit b (k - shift) else bufBit b k := by
  rcases Nat.eq_zero_or_pos shift with rfl | h0
  · rw [if_neg (Nat.not_lt_zero k), positionAtOffset_zero, Nat.sub_zero, ite_self]
  obtain ⟨j, r, hr, rfl⟩ := exists_byte_bit k
  rw [bufBit_byte _ _ _ hr, bufGet_positionAtOffset _ _ _ _ h1 h16 (Nat.ne_of_gt h0)]
  obtain rfl | ⟨i, rfl⟩ : j = 0 ∨ ∃ i, j = i + 1 := Nat.eq_zero_or_eq_succ_pred j |>.imp_right fun h => ⟨_, h⟩
  · rw [if_pos rfl, getLsbD_byteShr _ _ hr]
    by_cases hfirst : r < shift
    · rw [if_pos (by omega), decide_eq_false (by omega), Bool.false_and]
    · rw [if_neg (by omega), if_pos (by omega), decide_eq_true (by omega), Bool.true_and, Nat.mul_zero, Nat.zero_add,
        Nat.zero_add]
  · rw [if_neg (Nat.succ_ne_zero i)]
    by_cases hin : i + 1 < size
    · rw [if_pos hin, if_neg (by omega), if_pos (by omega), Nat.add_sub_cancel, BitVec.or_comm]
      have hbit := getLsbD_straddle b i (s := 8 - shift) hr (by omega)
      rw [show 8 - (8 - shift) = shift by omega] at hbit
      rw [hbit]
      congr 1
      omega
    · rw [if_neg hin, if_neg (by omega), if_neg (by omega), bufBit_byte _ _ _ hr]

/-- ALIGN0 on the region as a number (42_packer.md R122). -/
theorem bufNumber_alignToZero {size shift : Nat} (b : Buffer) (h1 : 1 ≤ size) (h16 : size ≤ 16) (h7 : shift ≤ 7) :
    bufNumber (alignToZero size shift b) size = bufNumber b size * 2 ^ shift % 2 ^ (8 * size) := by
  apply Nat.eq_of_testBit_eq
  intro i
  rw [Nat.testBit_mod_two_pow, Nat.testBit_mul_two_pow, bufNumber_testBit, bufNumber_testBit]
  by_cases hi : i < 8 * size
  · rw [bufBit_alignToZero _ _ h1 h16 h7, decide_eq_true hi, Bool.true_and, Bool.true_and]
    by_cases hs : shift ≤ i
    · rw [if_pos (by omega), decide_eq_true (by omega), decide_eq_true (by omega), Bool.true_and, Bool.true_and]
      congr 1
      omega
    · rw [if_neg (by omega), if_pos (by omega), decide_eq_false hs, Bool.false_and]
  · rw [decide_eq_false hi, Bool.false_and, Bool.false_and]

/-- POSOFF on the region as a number (42_packer.md R125). -/
theorem bufNumber_positionAtOffset {size shift : Nat} (b : Buffer) (h1 : 1 ≤ size) (h16 : size ≤ 16)
    (h7 : shift ≤ 7) : bufNumber (positionAtOffset size shift b) size = bufNumber b size / 2 ^ shift := by
  apply Nat.eq_of_testBit_eq
  intro i
  rw [Nat.testBit_div_two_pow, bufNumber_testBit, bufNumber_testBit, bufBit_positionAtOffset _ _ h1 h16 h7]
  by_cases hi : i + shift < 8 * size
  · rw [if_neg (by omega), if_pos (by omega), decide_eq_true (by omega), decide_eq_true (by omega)]
    congr 2
    omega
  · rw [decide_eq_false (p := i + shift < _) (by omega), Bool.false_and]
    by_cases hk : i < 8 * size
    · rw [if_pos (by omega), Bool.and_false]
    · rw [decide_eq_false hk, Bool.false_and]

/-- Settles O20: the bits of `alignToZero`, and its number from them. -/
theorem align0DiscardsLeadingBits : Obligations.Align0DiscardsLeadingBits := by
  intro size shift s h1 h16 h7
  refine ⟨_, exec_align0 shift s h1 h16, rfl, fun k hk => ?_, fun k hk => ?_, bufNumber_alignToZero s.sb h1 h16 h7⟩
  · rw [bufBit_alignToZero _ _ h1 h16 h7, if_pos hk]
  · rw [bufBit_alignToZero _ _ h1 h16 h7, if_neg (by omega), if_neg (by omega)]

/-- Settles O21: the bits of `positionAtOffset`, and its number from them. -/
theorem posoffPadsLeadingBits : Obligations.PosoffPadsLeadingBits := by
  intro size shift s h1 h16 h7
  refine ⟨_, exec_posoff shift s h1 h16, rfl, fun k hk => ?_, fun k hk => ?_,
    bufNumber_positionAtOffset s.sb h1 h16 h7⟩
  · rw [bufBit_positionAtOffset _ _ h1 h16 h7, if_pos hk]
  · rw [bufBit_positionAtOffset _ _ h1 h16 h7, if_neg (by omega), if_neg (by omega)]

/-! ### The round trips of the shifts (42_packer.md R127) -/

/-- ALIGN0 then POSOFF clears the first `shift` bits and keeps the others. -/
theorem bufBit_positionAtOffset_alignToZero {size shift : Nat} (b : Buffer) (k : Nat) (h1 : 1 ≤ size)
    (h16 : size ≤ 16) (h7 : shift ≤ 7) :
    bufBit (positionAtOffset size shift (alignToZero size shift b)) k = (bufBit b k && decide (shift ≤ k)) := by
  rw [bufBit_positionAtOffset _ _ h1 h16 h7]
  by_cases hk : k < shift
  · rw [if_pos hk, decide_eq_false (by omega), Bool.and_false]
  · rw [if_neg hk, decide_eq_true (by omega), Bool.and_true]
    by_cases hin : k < 8 * size
    · rw [if_pos hin, bufBit_alignToZero _ _ h1 h16 h7, if_pos (by omega), Nat.sub_add_cancel (by omega)]
    · rw [if_neg hin, bufBit_alignToZero _ _ h1 h16 h7, if_neg (by omega), if_neg hin]

/-- POSOFF then ALIGN0 clears the last `shift` bits of the region and keeps the others. -/
theorem bufBit_alignToZero_positionAtOffset {size shift : Nat} (b : Buffer) (k : Nat) (h1 : 1 ≤ size)
    (h16 : size ≤ 16) (h7 : shift ≤ 7) :
    bufBit (alignToZero size shift (positionAtOffset size shift b)) k =
      (bufBit b k && decide (k < 8 * size - shift ∨ 8 * size ≤ k)) := by
  rw [bufBit_alignToZero _ _ h1 h16 h7]
  by_cases hk : k < 8 * size - shift
  · rw [if_pos hk, bufBit_positionAtOffset _ _ h1 h16 h7, if_neg (by omega), if_pos (by omega), Nat.add_sub_cancel,
      decide_eq_true (.inl hk), Bool.and_true]
  · rw [if_neg hk]
    by_cases hin : k < 8 * size
    · rw [if_pos hin, decide_eq_false (by omega), Bool.and_false]
    · rw [if_neg hin, bufBit_positionAtOffset _ _ h1 h16 h7, if_neg (by omega), if_neg hin,
        decide_eq_true (.inr (by omega)), Bool.and_true]

/-- A byte whose eight buffer bits are masked is the masked byte. -/
theorem bufGet_eq_and_of_bits {a b : Buffer} {j : Nat} {mask : Byte}
    (h : ∀ r < 8, bufBit a (8 * j + r) = (bufBit b (8 * j + r) && mask.getLsbD (7 - r))) :
    bufGet a j = bufGet b j &&& mask := by
  apply BitVec.eq_of_getLsbD_eq
  intro i hi
  have hbit := h (7 - i) (by omega)
  rwa [bufBit_byte _ _ _ (by omega), bufBit_byte _ _ _ (by omega), show 7 - (7 - i) = i by omega,
    ← BitVec.getLsbD_and] at hbit

/-- Settles O22: the two orders' masks are the bits of R127 in the first and in the last byte of the region. -/
theorem shiftRoundTripClearsThePadding : Obligations.ShiftRoundTripClearsThePadding := by
  intro size shift s h1 h16 h7
  have hones : ∀ i, (0xFF : Byte).getLsbD i = decide (i < 8) := @BitVec.getLsbD_allOnes 8
  refine ⟨⟨_, _, exec_align0 shift s h1 h16, exec_posoff shift _ h1 h16, rfl, ?first, fun j h0 _ => ?others⟩,
    _, _, exec_posoff shift s h1 h16, exec_align0 shift _ h1 h16, rfl, ?last, fun j hj _ => ?others'⟩
  case first =>
    refine bufGet_eq_and_of_bits fun r hr => ?_
    rw [bufBit_positionAtOffset_alignToZero _ _ h1 h16 h7, BitVec.getLsbD_ushiftRight, hones]
    congr 1
    rw [decide_eq_decide]
    omega
  case others =>
    refine bufGet_eq_of_bits j fun r hr => ?_
    rw [bufBit_positionAtOffset_alignToZero _ _ h1 h16 h7, decide_eq_true (by omega), Bool.and_true]
  case last =>
    refine bufGet_eq_and_of_bits fun r hr => ?_
    rw [bufBit_alignToZero_positionAtOffset _ _ h1 h16 h7, BitVec.getLsbD_shiftLeft, hones,
      decide_eq_true (show 7 - r < 8 by omega), decide_eq_true (show 7 - r - shift < 8 by omega), Bool.true_and,
      Bool.and_true, ← decide_not]
    congr 1
    rw [decide_eq_decide]
    omega
  case others' =>
    refine bufGet_eq_of_bits j fun r hr => ?_
    rw [bufBit_alignToZero_positionAtOffset _ _ h1 h16 h7, decide_eq_true (by omega), Bool.and_true]

/-! ### The merge (42_packer.md section 2) -/

/-- MERGE raises nothing when `n` is at least 1 and the merged bytes end inside OB (42_packer.md R128, R133). -/
theorem exec_merge_of_fits {outoff srcoff n : Nat} (s : State) (hn : 1 ≤ n)
    (hfit : outoff / 8 + mergedCount outoff srcoff n ≤ 16) :
    exec (.merge outoff srcoff n) s = .next (mergeAt outoff srcoff n s) :=
  (if_neg (Nat.ne_of_gt hn)).trans (if_pos (decide_eq_true hfit))

/-- MERGE past OB raises CAPACITY before anything is changed (42_packer.md R133). -/
theorem exec_merge_of_not_fits {outoff srcoff n : Nat} (s : State) (hn : 1 ≤ n)
    (hfit : 16 < outoff / 8 + mergedCount outoff srcoff n) :
    exec (.merge outoff srcoff n) s = .next (setFlag .capacity s) :=
  (if_neg (Nat.ne_of_gt hn)).trans
    (if_neg (ne_true_of_eq_false (decide_eq_false (Nat.not_le.mpr hfit))))

/-- The shifted SB, whatever the two offsets: zeros, the field, zeros, the spill byte's high bits, and past them the
old bits (42_packer.md R129 (a)). -/
theorem bufBit_mergeSource {n : Nat} (outoff srcoff : Nat) (b : Buffer) (k : Nat) (hn : 1 ≤ n) (hn' : n ≤ 15) :
    bufBit (mergeSource outoff srcoff n b) k =
      if k < outoff % 8 then false
      else if k < outoff % 8 + (8 * n - srcoff % 8) then bufBit b (k - outoff % 8 + srcoff % 8)
      else if k < outoff % 8 + 8 * n then false
      else if k < 8 * n + 8 then bufBit b (k - outoff % 8)
      else bufBit b k := by
  rw [mergeSource, bitIndex, bitIndex, bufBit_positionAtOffset _ _ (by omega) (by omega) (by omega)]
  by_cases hzeros : k < outoff % 8
  · rw [if_pos hzeros, if_pos hzeros]
  rw [if_neg hzeros, if_neg hzeros]
  by_cases hin : k < 8 * (n + 1)
  · rw [if_pos hin, bufBit_alignToZero _ _ hn (by omega) (by omega)]
    by_cases hfield : k < outoff % 8 + (8 * n - srcoff % 8)
    · rw [if_pos (by omega), if_pos hfield]
    · rw [if_neg (by omega), if_neg hfield, if_pos (show k < 8 * n + 8 from hin)]
      exact if_congr (by omega) rfl rfl
  · rw [if_neg hin, bufBit_alignToZero _ _ hn (by omega) (by omega), if_neg (by omega), if_neg (by omega),
      if_neg (by omega), if_neg (by omega), if_neg (by omega)]

/-- Settles O24: the bits of `mergeSource`; with `so = 0` they are R129 (a)'s for a field without a spill. -/
theorem mergeRepositionsTheSourceBits : Obligations.MergeRepositionsTheSourceBits := by
  intro outoff srcoff n s _ _ hn hn' hfit
  have hbit := fun k => bufBit_mergeSource outoff srcoff s.sb k hn hn'
  refine ⟨_, exec_merge_of_fits s hn hfit, ?frame, ?_⟩
  case frame => unfold mergeAt; dsimp only; split <;> rfl
  rw [mergeAt_sb]
  refine ⟨fun _ k hk => ?spill, fun h0 => ⟨fun k hk => ?noSpill, bufGet_eq_of_bits n fun r hr => ?spillByte⟩,
    fun j hj _ => bufGet_eq_of_bits j fun r hr => ?past⟩
  case spill => rw [hbit, if_pos hk]
  case noSpill =>
    rw [hbit, h0, if_neg (Nat.not_lt_zero k), Nat.zero_add, Nat.zero_add, Nat.sub_zero, if_pos hk]
  case spillByte =>
    rw [hbit, h0, if_neg (by omega), if_neg (by omega), if_neg (by omega), if_pos (by omega), Nat.sub_zero]
  case past => rw [hbit, if_neg (by omega), if_neg (by omega), if_neg (by omega), if_neg (by omega)]

/-- OB after a MERGE that fits, byte by byte (42_packer.md R128 step 4). -/
theorem bufGet_mergeAt_ob {outoff srcoff n : Nat} (s : State)
    (hfit : outoff / 8 + mergedCount outoff srcoff n ≤ 16) (j : Nat) :
    bufGet (mergeAt outoff srcoff n s).ob j =
      if outoff / 8 ≤ j ∧ j < outoff / 8 + mergedCount outoff srcoff n then
        bufGet s.ob j ||| bufGet (mergeAt outoff srcoff n s).sb (j - outoff / 8)
      else bufGet s.ob j := by
  rw [mergeAt_ob, mergeAt_sb]
  exact bufGet_orLoop (outoff / 8) _ _ 0 _ j hfit

/-- OB after a MERGE that fits, bit by bit: the first `n2` bytes of the shifted SB are ORed at byte `bo`. -/
theorem bufBit_mergeAt_ob {outoff srcoff n : Nat} (s : State)
    (hfit : outoff / 8 + mergedCount outoff srcoff n ≤ 16) (k : Nat) :
    bufBit (mergeAt outoff srcoff n s).ob k =
      (bufBit s.ob k || (decide (outoff / 8 ≤ k / 8 ∧ k / 8 < outoff / 8 + mergedCount outoff srcoff n) &&
        bufBit (mergeSource outoff srcoff n s.sb) (k - 8 * (outoff / 8)))) := by
  obtain ⟨j, r, hr, rfl⟩ := exists_byte_bit k
  rw [bufBit_byte _ _ _ hr, bufGet_mergeAt_ob s hfit, mergeAt_sb, show (8 * j + r) / 8 = j by omega]
  by_cases hin : outoff / 8 ≤ j ∧ j < outoff / 8 + mergedCount outoff srcoff n
  · rw [if_pos hin, decide_eq_true hin, Bool.true_and, BitVec.getLsbD_or, ← bufBit_byte _ _ _ hr,
      ← bufBit_byte _ _ _ hr]
    congr 2
    omega
  · rw [if_neg hin, decide_eq_false hin, Bool.false_and, Bool.or_false, ← bufBit_byte _ _ _ hr]

/-- The spill byte is merged exactly with `so > ss` (42_packer.md R128 step 3). -/
theorem mergedCount_eq (outoff srcoff n : Nat) :
    mergedCount outoff srcoff n = n + if srcoff % 8 < outoff % 8 then 1 else 0 := rfl

/-- The bits that reach OB beyond the field are those of the spill byte shifted right by `so` (42_packer.md R132). -/
theorem bufBit_spill (b : Buffer) (n : Nat) {k so : Nat} (h : 8 * n + so ≤ k) (h' : k < 8 * n + 8) :
    bufBit b (k - so) = (bufGet b n >>> so).getLsbD (7 - k % 8) := by
  have hbit := getLsbD_byteShr b n (s := so) (Nat.mod_lt k (by decide))
  rw [decide_eq_true (by omega), Bool.true_and] at hbit
  exact (congrArg (bufBit b) (by omega)).trans hbit.symm

/-- With no spill, or with a spill byte whose bits are shifted to 0, the merged bytes hold the field and zeros
(42_packer.md R129 (b)). -/
theorem bufBit_mergeSource_of_clean {outoff srcoff n : Nat} {b : Buffer} {k : Nat} (hn : 1 ≤ n) (hn' : n ≤ 15)
    (hclean : outoff % 8 ≤ srcoff % 8 ∨ bufGet b n >>> (outoff % 8) = 0)
    (hk : k < 8 * mergedCount outoff srcoff n) :
    bufBit (mergeSource outoff srcoff n b) k =
      (decide (outoff % 8 ≤ k ∧ k < outoff % 8 + (8 * n - srcoff % 8)) &&
        bufBit b (k - outoff % 8 + srcoff % 8)) := by
  rw [bufBit_mergeSource _ _ _ _ hn hn']
  by_cases hfield : outoff % 8 ≤ k ∧ k < outoff % 8 + (8 * n - srcoff % 8)
  · rw [if_neg (by omega), if_pos hfield.2, decide_eq_true hfield, Bool.true_and]
  rw [decide_eq_false hfield, Bool.false_and]
  by_cases hbefore : k < outoff % 8 + 8 * n
  · rw [if_pos hbefore]
    split_ifs with hzeros hin
    · rfl
    · exact absurd ⟨by omega, hin⟩ hfield
    · rfl
  · rw [mergedCount_eq] at hk
    have hso : srcoff % 8 < outoff % 8 ∧ k < 8 * n + 8 := by split_ifs at hk <;> omega
    rw [if_neg (by omega), if_neg (by omega), if_neg hbefore, if_pos hso.2, bufBit_spill b n (by omega) hso.2,
      hclean.resolve_left (by omega)]
    exact BitVec.getLsbD_zero

/-- Settles O25: the OR loop byte by byte, and bit by bit with the clean shifted SB. -/
theorem mergeOrsTheFieldIntoTheOutput : Obligations.MergeOrsTheFieldIntoTheOutput := by
  intro outoff srcoff n s _ _ hn hn' hfit
  refine ⟨_, exec_merge_of_fits s hn hfit, fun j _ => bufGet_mergeAt_ob s hfit j, fun hclean k _ => ?_⟩
  rw [bufBit_mergeAt_ob s hfit]
  congr 1
  by_cases hin : outoff / 8 ≤ k / 8 ∧ k / 8 < outoff / 8 + mergedCount outoff srcoff n
  · rw [decide_eq_true hin, Bool.true_and, bufBit_mergeSource_of_clean hn hn' hclean (by omega)]
    by_cases hfield : outoff ≤ k ∧ k < outoff + (8 * n - srcoff % 8)
    · rw [decide_eq_true hfield, decide_eq_true (by omega), Bool.true_and, Bool.true_and]
      congr 1
      omega
    · rw [decide_eq_false hfield, decide_eq_false (by omega), Bool.false_and, Bool.false_and]
  · have hout : ¬ (outoff ≤ k ∧ k < outoff + (8 * n - srcoff % 8)) := by
      rw [mergedCount_eq] at hin
      split_ifs at hin <;> omega
    rw [decide_eq_false hin, decide_eq_false hout, Bool.false_and, Bool.false_and]

/-- Settles O26: OB byte `bo + n` is merged, and its bits from `so` on are past the field and its zeros. -/
theorem mergeOrsTheSpillByteBeyondTheField : Obligations.MergeOrsTheSpillByteBeyondTheField := by
  intro outoff srcoff n s _ _ hn hn' hfit hso
  have hcount : mergedCount outoff srcoff n = n + 1 := by rw [mergedCount_eq, if_pos hso]
  have hfit' : outoff / 8 + mergedCount outoff srcoff n ≤ 16 := by omega
  refine ⟨_, exec_merge_of_fits s hn hfit', fun k hk hk' => ?_⟩
  rw [bufBit_mergeAt_ob s hfit', decide_eq_true (by omega), Bool.true_and, bufBit_mergeSource _ _ _ _ hn hn',
    if_neg (by omega), if_neg (by omega), if_neg (by omega), if_pos (by omega),
    bufBit_spill s.sb n (by omega) (by omega), show (k - 8 * (outoff / 8)) % 8 = k % 8 by omega]

/-- OVERLAP's test on all merged bytes: an old OB byte and the final SB byte merged into it (42_packer.md R130). -/
theorem mergeAt_overlap (outoff srcoff n : Nat) (s : State) :
    (orLoop (byteIndex outoff) (mergeSource outoff srcoff n s.sb) (mergedCount outoff srcoff n) 0 (s.ob, false)).2 =
        true ↔
      ∃ i, i < mergedCount outoff srcoff n ∧
        bufGet s.ob (outoff / 8 + i) &&& bufGet (mergeAt outoff srcoff n s).sb i ≠ 0 := by
  rw [orLoop_overlap, mergeAt_sb]
  simp [bytesOverlap, byteIndex]

/-- Settles O27: the OR loop's test decides STATUS, and nothing else writes it. -/
theorem mergeSetsOverlapWhenAOneMeetsAOne : Obligations.MergeSetsOverlapWhenAOneMeetsAOne := by
  intro outoff srcoff n s hn hfit
  refine ⟨_, exec_merge_of_fits s hn hfit, fun hmeets => ?_, fun hapart => ?_⟩
  · rw [mergeAt_status, if_pos ((mergeAt_overlap _ _ _ _).mpr hmeets)]
    rfl
  · rw [mergeAt_status, if_neg fun h => ?_]
    obtain ⟨i, hi, hne⟩ := (mergeAt_overlap _ _ _ _).mp h
    exact hne (hapart i hi)

/-- Settles O29: each byte of OB is ORed with a byte of each shifted source, or with none, in either order. -/
theorem mergesIntoOneOutputCommute : Obligations.MergesIntoOneOutputCommute := by
  intro o1 c1 n1 o2 c2 n2 b1 b2 s hn1 hn2 hfit1 hfit2
  refine ⟨_, _, _, _, exec_merge_of_fits _ hn1 hfit1, exec_merge_of_fits _ hn2 hfit2,
    exec_merge_of_fits _ hn2 hfit2, exec_merge_of_fits _ hn1 hfit1, buf_ext fun j _ => ?_⟩
  simp only [bufGet_mergeAt_ob _ hfit1, bufGet_mergeAt_ob _ hfit2, mergeAt_sb]
  split_ifs
  · rw [BitVec.or_assoc, BitVec.or_assoc, BitVec.or_comm (bufGet (mergeSource o1 _ _ _) _)]
  all_goals rfl

/-! ### The span (42_packer.md section 3) -/

/-- SPAN of a field that has a bit (42_packer.md R134). -/
theorem exec_span {len : Nat} (off : Nat) (s : State) (hlen : 1 ≤ len) :
    exec (.span len off) s = .next (setResult (shiftSpan len off) s) :=
  if_neg (Nat.ne_of_gt hlen)

/-- The span depends on the offset in its byte only (42_packer.md R134). -/
theorem shiftSpan_mod (off : Nat) {len : Nat} (hlen : 1 ≤ len) : shiftSpan len (off % 8) = shiftSpan len off := by
  unfold shiftSpan
  omega

/-- The span is the count of bytes from that of the field's first bit to that of its last (42_packer.md R134). -/
theorem exists_bit_in_byte_iff (off j : Nat) {len : Nat} (hlen : 1 ≤ len) :
    (∃ k, off ≤ k ∧ k < off + len ∧ k / 8 = j) ↔ off / 8 ≤ j ∧ j < off / 8 + shiftSpan len off := by
  unfold shiftSpan
  constructor
  · rintro ⟨k, hfirst, hlast, rfl⟩
    omega
  · rintro ⟨hfirst, hlast⟩
    exact ⟨max off (8 * j), by omega, by omega, by omega⟩

/-- RESULT holds the span whole, since the operands' fields bound it (42_packer.md R134). -/
theorem setResult_shiftSpan_toNat {len off : Nat} (s : State) (hlen : len < 256) :
    (setResult (shiftSpan len off) s).result.toNat = shiftSpan len off := by
  rw [setResult_result, BitVec.toNat_ofNat, Nat.mod_eq_of_lt]
  unfold shiftSpan
  omega

/-- Settles O30: the word is the assembler's; the formula, its bounds and the bytes it counts are arithmetic. -/
theorem spanFollowsTheFormula : Obligations.SpanFollowsTheFormula := by
  intro len off s hlen hoff
  refine ⟨decodeOfEncodeIsTheInstruction (.span len off) (by simp [Instr.wellFormed, hlen, hoff]), ?operand,
    fun h1 => ⟨_, exec_span off s h1, rfl, ?sameSpan, ?_⟩⟩
  case operand => rintro rfl; rfl
  case sameSpan => rw [exec_span _ s h1, shiftSpan_mod off h1]
  rw [setResult_shiftSpan_toNat s hlen]
  have hbounds : 1 ≤ shiftSpan len off ∧ shiftSpan len off ≤ 33 := by
    unfold shiftSpan
    omega
  exact ⟨hbounds.1, hbounds.2, fun j => exists_bit_in_byte_iff off j h1⟩

/-- SPAN's formula on the field a MERGE places is MERGE's byte count (42_packer.md R136). -/
theorem shiftSpan_field (outoff srcoff : Nat) {n : Nat} (hn : 1 ≤ n) :
    shiftSpan (8 * n - srcoff % 8) outoff = mergedCount outoff srcoff n := by
  rw [mergedCount_eq, shiftSpan]
  split <;> omega

/-- OVERLAP is the only flag a MERGE that fits can set, so CAPACITY stays as it was (42_packer.md R128). -/
theorem flagOf_capacity_mergeAt (outoff srcoff n : Nat) (s : State) :
    flagOf .capacity (mergeAt outoff srcoff n s) = flagOf .capacity s := by
  have hmask : (flagMask .overlap).getLsbD (flagIndex .capacity) = false := by decide
  rw [flagOf, mergeAt_status]
  split
  · rw [BitVec.getLsbD_or, hmask, Bool.or_false, flagOf]
  · rfl

/-- Settles O31: the two counts are one number, on which MERGE's test for CAPACITY turns. -/
theorem spanEqualsTheBytesMergeWrites : Obligations.SpanEqualsTheBytesMergeWrites := by
  intro outoff srcoff n s _ _ hn hn'
  refine ⟨_, exec_span outoff s (by omega), ?_⟩
  rw [setResult_shiftSpan_toNat s (by omega), shiftSpan_field outoff srcoff hn]
  exact ⟨mergedCount_eq outoff srcoff n,
    fun hfit => ⟨_, exec_merge_of_fits s hn hfit, flagOf_capacity_mergeAt outoff srcoff n s,
      fun j _ => bufGet_mergeAt_ob s hfit j⟩,
    exec_merge_of_not_fits s hn⟩

/-! ### The clears and the packer's frame (42_packer.md section 4) -/

/-- The four bytes of the word 0 are 0. -/
theorem wordByte_zero (j : Nat) : wordByte 0 j = 0 := by
  simp [wordByte]

/-- Writing 0 to the four words of a buffer clears it (42_packer.md R137). -/
theorem bufPutWord_zeros (b : Buffer) :
    bufPutWord (bufPutWord (bufPutWord (bufPutWord b 0 0) 1 0) 2 0) 3 0 = bufZero := by
  refine buf_ext fun i hi => ?_
  simp only [bufGet_bufPutWord _ _ _ _ (show 0 < 4 by decide), bufGet_bufPutWord _ _ _ _ (show 1 < 4 by decide),
    bufGet_bufPutWord _ _ _ _ (show 2 < 4 by decide), bufGet_bufPutWord _ _ _ _ (show 3 < 4 by decide),
    wordByte_zero, bufGet_bufZero]
  split_ifs
  · rfl
  · rfl
  · rfl
  · rfl
  · omega

/-- Settles O32: the words are the assembler's, and each clear writes its buffer only. -/
theorem clearsZeroTheirBufferOnly : Obligations.ClearsZeroTheirBufferOnly :=
  ⟨decodeOfEncodeIsTheInstruction .sbclr rfl, decodeOfEncodeIsTheInstruction .obclr rfl, fun s =>
    ⟨⟨_, rfl, rfl, fun i _ => bufGet_bufZero i, (bufPutWord_zeros s.sb).symm⟩,
      _, rfl, rfl, fun i _ => bufGet_bufZero i⟩⟩

/-- A command completes from two states with the same SB and OB, the same flags newly set, and the same RESULT or
RESULT as it was (42_packer.md R139). -/
def SameOutcome (s s' : State) (o o' : Host.Outcome State Fault Refusal) : Prop :=
  ∃ t t' raised, o = .next t ∧ o' = .next t' ∧ t.sb = t'.sb ∧ t.ob = t'.ob ∧
    t.status = s.status ||| raised ∧ t'.status = s'.status ||| raised ∧
    (t.result = t'.result ∨ t.result = s.result ∧ t'.result = s'.result)

section
variable {s s' : State}

theorem sameOutcome_of_status_eq {t t' : State} (hsb : t.sb = t'.sb) (hob : t.ob = t'.ob)
    (hstatus : t.status = s.status) (hstatus' : t'.status = s'.status)
    (hresult : t.result = t'.result ∨ t.result = s.result ∧ t'.result = s'.result) :
    SameOutcome s s' (.next t) (.next t') :=
  ⟨t, t', 0, rfl, rfl, hsb, hob, hstatus.trans BitVec.or_zero.symm, hstatus'.trans BitVec.or_zero.symm, hresult⟩

theorem sameOutcome_source (shifted : Buffer → Buffer) (hsb : s.sb = s'.sb) (hob : s.ob = s'.ob) :
    SameOutcome s s' (.next { s with sb := shifted s.sb }) (.next { s' with sb := shifted s'.sb }) :=
  sameOutcome_of_status_eq (congrArg shifted hsb) hob rfl rfl (.inr ⟨rfl, rfl⟩)

theorem sameOutcome_setFlag (f : Flag) (hsb : s.sb = s'.sb) (hob : s.ob = s'.ob) :
    SameOutcome s s' (.next (setFlag f s)) (.next (setFlag f s')) :=
  ⟨_, _, flagMask f, rfl, rfl, hsb, hob, rfl, rfl, .inr ⟨rfl, rfl⟩⟩

/-- MERGE's test for OVERLAP reads SB and OB only, and so raises the same in both states (42_packer.md R130). -/
theorem sameOutcome_mergeAt (outoff srcoff n : Nat) (hsb : s.sb = s'.sb) (hob : s.ob = s'.ob) :
    SameOutcome s s' (.next (mergeAt outoff srcoff n s)) (.next (mergeAt outoff srcoff n s')) := by
  have hraised : ∀ u : State, ∀ met : Bool,
      (if met then u.status ||| flagMask .overlap else u.status) =
        u.status ||| if met then flagMask .overlap else 0 := by
    intro u met
    cases met with
    | true => rfl
    | false => exact BitVec.or_zero.symm
  refine ⟨_, _, _, rfl, rfl, ?_, ?_, (mergeAt_status _ _ _ _).trans (hraised s _),
    (mergeAt_status _ _ _ _).trans ?_, .inr ⟨mergeAt_result _ _ _ _, mergeAt_result _ _ _ _⟩⟩
  · rw [mergeAt_sb, mergeAt_sb, hsb]
  · rw [mergeAt_ob, mergeAt_ob, hsb, hob]
  · rw [hsb, hob]
    exact hraised s' _

end

/-- Settles O33: a command's tests read its operands; what it then writes is made of SB, OB and the operands. -/
theorem packerReadsOnlyItsBuffers : Obligations.PackerReadsOnlyItsBuffers := by
  intro i s s' hi hsb hob
  change SameOutcome s s' (exec i s) (exec i s')
  have hresult : s.result = s'.result ∨ s.result = s.result ∧ s'.result = s'.result := .inr ⟨rfl, rfl⟩
  cases i with
  | align0 size shift | posoff size shift =>
    simp only [exec, execAlign0, execPosoff]
    split_ifs
    · exact sameOutcome_of_status_eq hsb hob rfl rfl hresult
    · exact sameOutcome_source _ hsb hob
    · exact sameOutcome_setFlag _ hsb hob
  | merge outoff srcoff n =>
    simp only [exec, execMerge]
    split_ifs
    · exact sameOutcome_setFlag _ hsb hob
    · exact sameOutcome_mergeAt outoff srcoff n hsb hob
    · exact sameOutcome_setFlag _ hsb hob
  | span len off =>
    simp only [exec, execSpan]
    split_ifs
    · exact sameOutcome_setFlag _ hsb hob
    · exact sameOutcome_of_status_eq hsb hob rfl rfl (.inl rfl)
  | sbclr => exact sameOutcome_of_status_eq rfl hob rfl rfl hresult
  | obclr => exact sameOutcome_of_status_eq hsb rfl rfl rfl hresult
  | kreset | hsize | psize | csize | copy => cases hi

end Sys2Proof.Proofs

/-! ## The framer family (43_framer.md): COPY, its hold, and what ends the hold -/

namespace Sys2Proof.Proofs

open Sys2Proof.Machine Sys2Proof.Safety Sys2Proof.Laws

/-! ### The hold invariant -/

/-- A held COPY has its packet of the declared size at the front, and its CMD write has no response
(43_framer.md R155). -/
def HoldInvariant (s : State) : Prop := HeldCopyMatches s ∧ HeldUnanswered s

theorem holdInvariant_of_free {s : State} (h : s.held = false) : HoldInvariant s := by
  constructor <;> intro hheld <;> exact absurd hheld (by simp [h])

/-- A response is given only where no COPY is held, so it breaks no hold's silence. -/
theorem HoldInvariant.respond {s : State} (h : HoldInvariant s) (r : Response) : HoldInvariant (respond r s) := by
  cases hheld : s.held with
  | false => exact holdInvariant_of_free ((respond_held r s).trans hheld)
  | true =>
    rw [Machine.respond, if_pos hheld]
    exact h

/-- Of COPY's four outcomes only the one without a grant holds, and it leaves the packet at the front, of the declared
size (43_framer.md R150, R155). -/
theorem holdInvariant_copyInto {s : State} {packet : Packet} {rest : List Packet} (hp : s.packets = packet :: rest)
    (hr : s.response = none) : HoldInvariant (copyInto (packetSize s.codec s.hs) packet rest s) := by
  rcases copyInto_cases (packetSize s.codec s.hs) packet rest s with ⟨-, e⟩ | ⟨-, e⟩ | ⟨-, -, e⟩ | ⟨hlen, -, e⟩ <;>
    rw [e]
  · exact holdInvariant_of_free rfl
  · exact holdInvariant_of_free rfl
  · exact holdInvariant_of_free rfl
  · exact ⟨fun _ => ⟨packet, rest, hp, hlen⟩, fun _ => hr⟩

/-- A command that runs where no COPY is held ends with none held, or is the COPY that now is. -/
theorem CommandEffect.holdInvariant {i : Instr} {s u : State} (hu : CommandEffect s i u) (hfree : s.held = false)
    (hr : s.response = none) : HoldInvariant u := by
  cases hu with
  | copy packet rest hp => exact holdInvariant_copyInto hp hr
  | merge => exact holdInvariant_of_free ((mergeAt_held _ _ _ _).trans hfree)
  | unchanged | fault | kreset | result | source | obclr => exact holdInvariant_of_free hfree

/-- A move taken where no COPY is held: only a command can start a hold. -/
theorem MoveEffect.holdInvariant {e : Input} {s t : State} (ht : MoveEffect s e t)
    (hfree : s.held = false) : HoldInvariant t := by
  cases ht with
  | command w i u _ hu => exact (hu.holdInvariant hfree rfl).respond _
  | illegal => exact holdInvariant_of_free ((respond_held _ _).trans hfree)
  | xformAdvance => exact holdInvariant_of_free ((xformAdvance_held _).trans hfree)
  | reset => exact holdInvariant_of_free rfl
  | quiet | writeStatus | writeRing | writeHeader | writeSource | writeOutput | xformRead | present | sinkRoom =>
    exact holdInvariant_of_free hfree

/-- The other agents' moves, which are taken during a hold too: XFORM and SINK touch nothing of it, PKTSRC presents
behind the held packet, and reset abandons it (43_framer.md R155). -/
theorem HoldInvariant.of_move_not_host {e : Input} {s t : State} (h : HoldInvariant s) (he : fromHost e = false)
    (ht : runInput e s = .next t) : HoldInvariant t := by
  cases e with
  | hostRead | hostWrite => cases he
  | xformRead | sinkRoom => cases ht; exact h
  | xformAdvance => cases ht; simpa [HoldInvariant, HeldCopyMatches, HeldUnanswered] using h
  | reset => cases ht; exact holdInvariant_of_free rfl
  | present packet =>
    cases ht
    obtain ⟨hmatches, hunanswered⟩ := h
    refine ⟨fun hheld => ?_, hunanswered⟩
    obtain ⟨front, rest, hp, hlen⟩ := hmatches hheld
    exact ⟨front, rest ++ [packet], by rw [presentPacket_packets, hp, List.cons_append], hlen⟩

/-- Settles O54: a held COPY's packet is touched by the COPY's own completion alone, and HOST, who could be answered or
start another COPY, moves only where none is held. -/
theorem holdInvariantIsKept : Obligations.HoldInvariantIsKept := by
  intro s t h hstep
  change HoldInvariant t
  rcases step_cases hstep with ⟨hheld, -, u, hu, rfl⟩ | ⟨e, rest, hn, ht⟩ | ⟨-, rfl⟩
  · obtain ⟨packet, rest, hp, rfl⟩ := execCopy_next hu
    exact (holdInvariant_copyInto hp (h.2 hheld)).respond _
  · cases hheld : s.held with
    | false => exact (runInput_effect ht).holdInvariant hheld
    | true =>
      obtain ⟨-, hother⟩ := nextInput_spec hn
      exact HoldInvariant.of_move_not_host (s := { s with inputs := rest }) h (hother hheld) ht
  · exact h

/-! ### The move that is next during a hold -/

/-- HOST's moves wait while a COPY is held: with no other move there is none to take (43_framer.md R155). -/
theorem nextInput_held_of_all_host {l : List Input} (h : ∀ e ∈ l, fromHost e = true) : nextInput true l = none := by
  rcases hn : nextInput true l with _ | ⟨e, rest⟩
  · rfl
  · obtain ⟨⟨before, after, rfl, -⟩, hother⟩ := nextInput_spec hn
    exact absurd (h e (by simp)) (by simp [hother rfl])

/-- HOST's waiting moves are passed over, and keep their places (43_framer.md R155; log 1). -/
theorem nextInput_held_past_waiting {waiting : List Input} (moves : List Input) {e : Input}
    (hw : ∀ x ∈ waiting, fromHost x = true) (he : fromHost e = false) :
    nextInput true (waiting ++ e :: moves) = some (e, waiting ++ moves) := by
  induction waiting with
  | nil => simp [nextInput, he]
  | cons a waiting ih =>
    obtain ⟨ha, hw⟩ := List.forall_mem_cons.mp hw
    simp [nextInput, ha, ih hw]

/-- Settles O39: no move can be taken, so the step answers the same state, and so does every later one. -/
theorem heldCopyWithoutGrantHangs : Obligations.HeldCopyWithoutGrantHangs := by
  intro s n hheld hgrant hhost
  refine run_stays ?_ n
  rw [step, agentStep, hheld, hgrant, nextInput_held_of_all_host hhost]
  rfl

/-! ### COPY of a packet of the declared size: committed with a grant, held without -/

/-- A packet of the declared size passes both length tests, and the grant decides (43_framer.md R150, R155). -/
theorem copyInto_of_length_eq {S : Nat} {packet : Packet} (h : packet.flatten.length = S) (rest : List Packet)
    (s : State) :
    copyInto S packet rest s =
      if sinkGrants s.sink S then { takePacket rest s with sink := sinkCommit S packet.flatten s.sink }
      else { s with held := true } := by
  rw [copyInto, if_neg (by omega), if_neg (by omega)]

section
variable {s : State} {packet : Packet} {rest : List Packet} (hp : s.packets = packet :: rest)
include hp

/-- COPY with a presented packet (43_framer.md R150). -/
theorem exec_copy : exec .copy s = .next (copyInto (packetSize s.codec s.hs) packet rest s) := by
  rw [exec, execCopy, hp]

variable (hlen : packet.flatten.length = packetSize s.codec s.hs)
include hlen

/-- With a grant the packet is committed and taken, and no COPY is held (43_framer.md R150). -/
theorem exec_copy_granted (hgrant : sinkGrants s.sink (packetSize s.codec s.hs) = true) :
    exec .copy s = .next { s with
      packets := rest, held := false, sink := sinkCommit packet.flatten.length packet.flatten s.sink } := by
  rw [exec_copy hp, copyInto_of_length_eq hlen, if_pos hgrant, hlen]
  rfl

/-- Without one the COPY is held and has changed nothing else (43_framer.md R155). -/
theorem exec_copy_not_granted (hgrant : sinkGrants s.sink (packetSize s.codec s.hs) = false) :
    exec .copy s = .next { s with held := true } := by
  rw [exec_copy hp, copyInto_of_length_eq hlen, if_neg (by simp [hgrant])]

/-- A held COPY that SINK grants completes as the next step, and its CMD write is answered (20_memory.md R58). -/
theorem step_held_granted (hheld : s.held = true)
    (hgrant : sinkGrants s.sink (packetSize s.codec s.hs) = true) :
    step s = .next { s with
      packets := rest, held := false, sink := sinkCommit packet.flatten.length packet.flatten s.sink,
      response := some (.write .okay) } := by
  rw [step, agentStep, if_pos (by simp [hheld, hgrant]), exec_copy_granted hp hlen hgrant]
  rfl

end

/-- Settles O40: the first step takes SINK's move past HOST's, the second completes the COPY. -/
theorem grantEndsTheHold : Obligations.GrantEndsTheHold := by
  intro s packet rest waiting moves r hheld hgrant hp hlen hw hinputs hr
  have hmove : MoveNext s (.sinkRoom (some r)) (waiting ++ moves) :=
    ⟨by rw [hheld, hgrant]; rfl, by rw [hheld, hinputs]; exact nextInput_held_past_waiting moves hw rfl⟩
  have hroom : step s = .next (setSinkRoom (some r) { s with inputs := waiting ++ moves }) := step_of_moveNext hmove
  have hgranted : sinkGrants ⟨s.sink.bytes, some r⟩ (packetSize s.codec s.hs) = true :=
    (sinkGrants_iff _ _).mpr ⟨r, rfl, hr⟩
  have hcopy := step_held_granted (s := setSinkRoom (some r) { s with inputs := waiting ++ moves })
    hp hlen hheld hgranted
  exact ⟨_, (run_succ 1 hroom).trans (run_succ 0 hcopy), rfl, sinkCommit_bytes _ _⟩

/-- Settles O34: SINK's bytes grow by the packet, whose length is the declared size. -/
theorem copyCommitsTheWholePacket : Obligations.CopyCommitsTheWholePacket := by
  intro s packet rest hfree hp hlen hgrant
  refine ⟨_, exec_copy_granted hp hlen hgrant, by rw [← hfree], sinkCommit_bytes _ _, ?_⟩
  rw [sinkCursor, sinkCommit_bytes, List.length_append, hlen, sinkCursor]

/-- Settles O38: the command is COPY, and the answer waits with it. -/
theorem copyWithoutRoomIsHeld : Obligations.CopyWithoutRoomIsHeld := by
  intro s packet rest moves hnext hp hlen hgrant
  have hcopy := exec_copy_not_granted (s := { s with inputs := moves, response := none }) hp hlen hgrant
  rw [step_command hnext (decodeOfEncodeIsTheInstruction .copy rfl), hcopy]
  rfl

/-! ### Segmentation -/

/-- COPY looks at the concatenation of the segments only (43_framer.md R154). -/
theorem copyInto_congr {p q : Packet} (h : p.flatten = q.flatten) (S : Nat) (rest : List Packet) (s : State) :
    copyInto S p rest s = copyInto S q rest s := by
  rw [copyInto, copyInto, h]

/-- The presented packets COPY leaves are those behind its own, or, in a hold, all that were there (log 6). -/
theorem copyInto_presented (S : Nat) (packet : Packet) (rest l l' : List Packet) (s : State) :
    copyInto S packet rest { s with packets := l } = copyInto S packet rest { s with packets := l' } ∨
      (copyInto S packet rest { s with packets := l }).held = true ∧
        copyInto S packet rest { s with packets := l' } =
          { copyInto S packet rest { s with packets := l } with packets := l' } := by
  unfold copyInto
  split_ifs
  · exact .inl rfl
  · exact .inl rfl
  · exact .inl rfl
  · exact .inr ⟨rfl, rfl⟩

/-- Settles O37: the two COPYs run alike on what is presented, up to the packet that a hold leaves. -/
theorem segmentationIsInvisible : Obligations.SegmentationIsInvisible := by
  intro s p q rest h
  refine ⟨_, _, exec_copy rfl, exec_copy rfl, ?_⟩
  rw [copyInto_congr h]
  exact copyInto_presented _ q rest (p :: rest) (q :: rest) s

end Sys2Proof.Proofs

/-! ## The exceptions family (60_exceptions.md): what raises a fault, what a fault leaves alone, and clearing it -/

namespace Sys2Proof.Proofs

open Sys2Proof.Machine Sys2Proof.Safety Sys2Proof.Laws

/-! ### Reading a flag after one is set -/

/-- Each flag has a bit of STATUS of its own (10_state.md R27). -/
theorem getLsbD_flagMask (f g : Flag) : (flagMask g).getLsbD (flagIndex f) = decide (f = g) := by
  cases f <;> cases g <;> rfl

/-- Setting a flag sets that flag and no other (60_exceptions.md R160). -/
theorem flagOf_setFlag_eq (f g : Flag) (s : State) : flagOf f (setFlag g s) = (flagOf f s || decide (f = g)) := by
  rw [flagOf, setFlag_status, BitVec.getLsbD_or, getLsbD_flagMask, flagOf]

theorem eq_of_newly_set {f g : Flag} {s : State} (hs : flagOf f s = false) (ht : flagOf f (setFlag g s) = true) :
    f = g := by
  simpa [flagOf_setFlag_eq, hs] using ht

/-- OVERLAP is the only flag a MERGE that raises nothing can set (42_packer.md R130). -/
theorem flagOf_mergeAt_of_isFault {f : Flag} (hf : isFault f = true) (outoff srcoff n : Nat) (s : State) :
    flagOf f (mergeAt outoff srcoff n s) = flagOf f s := by
  have hne : f ≠ .overlap := by rintro rfl; cases hf
  rw [flagOf, mergeAt_status]
  split
  · rw [BitVec.getLsbD_or, getLsbD_flagMask, decide_eq_false hne, Bool.or_false, flagOf]
  · rfl

/-! ### A word that is no command (60_exceptions.md R161) -/

/-- A word that decodes is in a row of the opcode map (30_encoding.md R84). -/
theorem exists_row_of_decode {w : Word} {i : Instr} (h : decode w = .ok i) :
    ∃ row ∈ commandTable, w &&& row.1 = row.2 := by
  obtain ⟨hkreset, hhsize, hpsize, hcsize, halign0, hposoff, hmerge, hspan, hsbclr, hobclr, hcopy⟩ :=
    decodingFollowsMatchAndMask w
  cases i with
  | kreset => exact ⟨(_, _), by decide, hkreset.mp h⟩
  | hsize => exact ⟨(_, _), by decide, hhsize.mp h⟩
  | psize => exact ⟨(_, _), by decide, hpsize.mp h⟩
  | csize d => exact ⟨(_, _), by decide, hcsize.mp ⟨d, h⟩⟩
  | align0 size shift => exact ⟨(_, _), by decide, halign0.mp ⟨size, shift, h⟩⟩
  | posoff size shift => exact ⟨(_, _), by decide, hposoff.mp ⟨size, shift, h⟩⟩
  | merge outoff srcoff n => exact ⟨(_, _), by decide, hmerge.mp ⟨outoff, srcoff, n, h⟩⟩
  | span len off => exact ⟨(_, _), by decide, hspan.mp ⟨len, off, h⟩⟩
  | sbclr => exact ⟨(_, _), by decide, hsbclr.mp h⟩
  | obclr => exact ⟨(_, _), by decide, hobclr.mp h⟩
  | copy => exact ⟨(_, _), by decide, hcopy.mp h⟩

/-- With no COPY held a response is given at once (43_framer.md R155). -/
theorem respond_of_free {s : State} (h : s.held = false) (r : Response) :
    respond r s = { s with response := some r } :=
  if_neg (by simp [h])

/-- HOST's write to CMD of a word that does not decode, when it is next (30_encoding.md R88). -/
theorem step_no_command {s : State} {w : Word} {e : Illegal} {rest : List Input} (h : HostWriteNext s 0x00 w rest)
    (hd : decode w = .error e) :
    step s = .next { s with
      inputs := rest, status := s.status ||| flagMask .illcmd, response := some (.write .okay) } := by
  obtain ⟨hheld, hinputs⟩ := h
  rw [step_hostWrite hheld hinputs (by decide), busWrite, show accessedReg 0x00 .w32 = some .cmd from rfl]
  simp only [runCommand, hd, raiseFault_eq, respondTo]
  exact congrArg _ (respond_of_free (s := setFlag .illcmd { s with inputs := rest, response := none }) hheld _)

/-- Settles O5: a word that decodes is in a row, so this one does not decode, and ILLCMD is all that is left of it. -/
theorem wordThatIsNoCommandRaisesIllcmdOnly : Obligations.WordThatIsNoCommandRaisesIllcmdOnly := by
  intro s w rest h hrows
  cases hd : decode w with
  | ok i =>
    obtain ⟨row, hmem, hrow⟩ := exists_row_of_decode hd
    exact absurd hrow (hrows row hmem)
  | error e => exact step_no_command h hd

/-! ### Operands outside the domain (60_exceptions.md R162) -/

/-- The operand test comes before anything is changed (60_exceptions.md R171). -/
theorem exec_of_outsideDomain {i : Instr} (s : State) (h : outsideDomain i = true) :
    exec i s = .next (setFlag .operand s) := by
  cases i with
  | align0 size shift | posoff size shift =>
    obtain ⟨hshift, hsize⟩ : shift ≠ 0 ∧ (size = 0 ∨ 16 < size) := by simpa [outsideDomain] using h
    have hdom : ¬ sizeInDomain size = true := by
      simp only [sizeInDomain, Bool.and_eq_true, decide_eq_true_eq]
      omega
    exact (if_neg hshift).trans (if_neg hdom)
  | merge outoff srcoff n =>
    obtain rfl : n = 0 := by simpa [outsideDomain] using h
    rfl
  | span len off =>
    obtain rfl : len = 0 := by simpa [outsideDomain] using h
    rfl
  | kreset | hsize | psize | csize | sbclr | obclr | copy => cases h

/-- What the operands of a shift are when they raise nothing; POSOFF's domain is the same (42_packer.md R120, R123). -/
theorem shift_operands_in_domain {size shift : Nat} (h : ¬ outsideDomain (.align0 size shift) = true) :
    shift = 0 ∨ 1 ≤ size ∧ size ≤ 16 := by
  simp only [outsideDomain, Bool.and_eq_true, Bool.or_eq_true, bne_iff_ne, beq_iff_eq, decide_eq_true_eq] at h
  omega

/-! ### COPY of a packet that is not of the declared size (60_exceptions.md R165, R166) -/

theorem copyInto_of_length_lt {S : Nat} {packet : Packet} (h : packet.flatten.length < S) (rest : List Packet)
    (s : State) : copyInto S packet rest s = setFlag .framing (takePacket rest s) :=
  if_pos h

theorem copyInto_of_lt_length {S : Nat} {packet : Packet} (h : S < packet.flatten.length) (rest : List Packet)
    (s : State) : copyInto S packet rest s = setFlag .overlong (takePacket rest s) :=
  (if_neg (Nat.not_lt.mpr (Nat.le_of_lt h))).trans (if_pos h)

/-- Where no COPY was held, taking the packet changes nothing else (43_framer.md R150). -/
theorem takePacket_of_free {s : State} (h : s.held = false) (rest : List Packet) :
    takePacket rest s = { s with packets := rest } := by
  rw [takePacket, ← h]

/-- Settles O35: the length is tested before SINK is asked. -/
theorem shortPacketRaisesFraming : Obligations.ShortPacketRaisesFraming := by
  intro s packet rest hfree hp hlen
  rw [exec_copy hp, copyInto_of_length_lt hlen, takePacket_of_free hfree]
  rfl

/-- Settles O36: the length is tested before SINK is asked. -/
theorem longPacketRaisesOverlong : Obligations.LongPacketRaisesOverlong := by
  intro s packet rest hfree hp hlen
  rw [exec_copy hp, copyInto_of_lt_length hlen, takePacket_of_free hfree]
  rfl

/-! ### Which command raises which fault (60_exceptions.md R171) -/

/-- `RaisesFault s i f t`: in `s` the command `i` has raised the fault `f`, and `t` is all it has done. -/
inductive RaisesFault (s : State) : Instr → Flag → State → Prop
  /-- The operand test (R162). -/
  | operand {i : Instr} (hi : outsideDomain i = true) : RaisesFault s i .operand (setFlag .operand s)
  /-- MERGE's own condition (R163). -/
  | capacity (outoff srcoff n : Nat) : RaisesFault s (.merge outoff srcoff n) .capacity (setFlag .capacity s)
  /-- CSIZE's own condition (R164). -/
  | size (d : Bool) : RaisesFault s (.csize d) .size (setFlag .size s)
  /-- COPY's first condition (R165). -/
  | framing {packet : Packet} {rest : List Packet} (hp : s.packets = packet :: rest) :
      RaisesFault s .copy .framing (setFlag .framing (takePacket rest s))
  /-- COPY's second condition (R166). -/
  | overlong {packet : Packet} {rest : List Packet} (hp : s.packets = packet :: rest) :
      RaisesFault s .copy .overlong (setFlag .overlong (takePacket rest s))

/-- A command that newly sets a fault's flag has raised that fault: the operand test comes first, then the command's
own condition, and a command that passes both sets no fault (60_exceptions.md R171). -/
theorem raisesFault_of_newly_set {i : Instr} {s t : State} {f : Flag} (h : exec i s = .next t)
    (hf : isFault f = true) (hs : flagOf f s = false) (ht : flagOf f t = true) : RaisesFault s i f t := by
  have hne : flagOf f t ≠ flagOf f s := by simp [hs, ht]
  by_cases hdom : outsideDomain i = true
  · rw [exec_of_outsideDomain s hdom] at h
    cases h
    obtain rfl := eq_of_newly_set hs ht
    exact .operand hdom
  cases i with
  | kreset | hsize | psize | sbclr | obclr => cases h; exact absurd rfl hne
  | csize d =>
    rcases Nat.lt_or_ge (packetSize s.codec s.hs) (headerSize s.codec s.hs) with hlt | hle
    · rw [exec_csize_of_lt hlt] at h
      cases h
      obtain rfl := eq_of_newly_set hs ht
      exact .size d
    · rw [exec_csize_of_le hle] at h
      cases h
      exact absurd rfl hne
  | align0 size shift | posoff size shift =>
    rcases shift_operands_in_domain hdom with rfl | ⟨h1, h16⟩
    · cases h; exact absurd rfl hne
    · simp only [exec_align0 shift s h1 h16, exec_posoff shift s h1 h16] at h
      cases h
      exact absurd rfl hne
  | merge outoff srcoff n =>
    have hn : 1 ≤ n := Nat.one_le_iff_ne_zero.mpr (by simpa [outsideDomain] using hdom)
    rcases Nat.lt_or_ge 16 (outoff / 8 + mergedCount outoff srcoff n) with hpast | hfit
    · rw [exec_merge_of_not_fits s hn hpast] at h
      cases h
      obtain rfl := eq_of_newly_set hs ht
      exact .capacity outoff srcoff n
    · rw [exec_merge_of_fits s hn hfit] at h
      cases h
      exact absurd (flagOf_mergeAt_of_isFault hf outoff srcoff n s) hne
  | span len off =>
    rw [exec_span off s (Nat.one_le_iff_ne_zero.mpr (by simpa [outsideDomain] using hdom))] at h
    cases h
    exact absurd rfl hne
  | copy =>
    obtain ⟨packet, rest, hp, rfl⟩ := execCopy_next h
    rcases copyInto_cases (packetSize s.codec s.hs) packet rest s with ⟨-, e⟩ | ⟨-, e⟩ | ⟨-, -, e⟩ | ⟨-, -, e⟩ <;>
      rw [e] at ht hne ⊢
    · obtain rfl := eq_of_newly_set (s := takePacket rest s) hs ht
      exact .framing hp
    · obtain rfl := eq_of_newly_set (s := takePacket rest s) hs ht
      exact .overlong hp
    · exact absurd rfl hne
    · exact absurd rfl hne

/-- Settles O23: the listed operands fail the first test of their command, and no other test raises OPERAND. -/
theorem operandIsRaisedExactlyOutsideTheDomain : Obligations.OperandIsRaisedExactlyOutsideTheDomain := by
  refine ⟨fun i s hdom => exec_of_outsideDomain s hdom, fun i s t h hs ht => ?_⟩
  cases raisesFault_of_newly_set h rfl hs ht with
  | operand hdom => exact hdom

/-- Settles O49: a raised fault is its flag on the old state, or, in COPY, on the old state without its packet. -/
theorem faultsArePrecise : Obligations.FaultsArePrecise := by
  intro i s t f hfree h hf hs ht
  cases raisesFault_of_newly_set h hf hs ht with
  | operand hdom => exact ⟨rfl, fun _ => rfl, by rintro rfl; cases hdom⟩
  | capacity | size => exact ⟨rfl, fun _ => rfl, nofun⟩
  | framing hp | overlong hp =>
    rw [takePacket_of_free hfree]
    exact ⟨rfl, fun hcopy => absurd rfl hcopy, fun _ => by rw [hp]; rfl⟩

/-- Settles O28: CAPACITY is tested before the merge; SPAN writes OPERAND or RESULT. -/
theorem mergePastTheOutputRaisesCapacityOnly : Obligations.MergePastTheOutputRaisesCapacityOnly := by
  refine ⟨fun outoff srcoff n s hn hpast => exec_merge_of_not_fits s hn hpast, fun len off s t h => ?_⟩
  rcases Nat.eq_zero_or_pos len with rfl | hlen
  · rw [exec_of_outsideDomain s rfl] at h
    cases h
    rw [flagOf_setFlag_eq]
    exact Bool.or_false _
  · rw [exec_span off s hlen] at h
    cases h
    rfl

/-- Settles O50: none of these commands has a test to fail, and none writes STATUS, the packets or the sink. -/
theorem someCommandsNeverFault : Obligations.SomeCommandsNeverFault := by
  intro s size i hi
  simp only [List.mem_cons, List.not_mem_nil, or_false] at hi
  rcases hi with rfl | rfl | rfl | rfl | rfl | rfl | rfl
  all_goals exact ⟨_, rfl, rfl, rfl, rfl⟩

/-! ### Clearing, and the fault output (60_exceptions.md R170, R173) -/

/-- HOST's write of STATUS as the next step (60_exceptions.md R173). -/
theorem step_write_status {s : State} {v : Word} {rest : List Input} (h : HostWriteNext s 0x04 v rest) :
    step s = .next { clearFlags v { s with inputs := rest } with response := some (.write .okay) } :=
  step_write_register (r := .status) h rfl

/-- Settles O47: each bit of STATUS is cleared by the same bit of the word, and no bit past the eighth is looked at. -/
theorem statusWriteClearsTheWrittenFlags : Obligations.StatusWriteClearsTheWrittenFlags := by
  intro s v rest h
  refine ⟨_, step_write_status h, rfl, fun b hb => ?_⟩
  simp [hb]

/-- STATUS is zero exactly when all its eight flags are 0 (10_state.md R27). -/
theorem status_eq_zero_iff (s : State) : s.status = 0 ↔ ∀ f, flagOf f s = false := by
  refine ⟨fun h f => by simp [flagOf, h], fun h => BitVec.eq_of_getLsbD_eq fun b hb => ?_⟩
  have hflag : ∃ f, flagIndex f = b := by
    interval_cases b
    exacts [⟨.illcmd, rfl⟩, ⟨.operand, rfl⟩, ⟨.capacity, rfl⟩, ⟨.size, rfl⟩, ⟨.framing, rfl⟩, ⟨.overlong, rfl⟩,
      ⟨.overlap, rfl⟩, ⟨.ctrwrap, rfl⟩]
  obtain ⟨f, rfl⟩ := hflag
  exact (h f).trans BitVec.getLsbD_zero.symm

/-- Settles O48: the output is STATUS not being 0, and the mask of a full clear keeps no bit. -/
theorem faultOutputIsTheOrOfTheFlags : Obligations.FaultOutputIsTheOrOfTheFlags := by
  refine ⟨fun s => ?_, fun s v rest h hv => ⟨_, step_write_status h, ?_⟩⟩
  · rw [faultOutput, bne_iff_ne, ne_eq, status_eq_zero_iff]
    simp
  · simp [faultOutput, hv]

end Sys2Proof.Proofs

/-! ## The reset and hazards family (70_reset_and_hazards.md): what stops, what reset leaves, and how a run ends -/

namespace Sys2Proof.Proofs

open Sys2Proof.Machine Sys2Proof.Safety Sys2Proof.Laws

/-! ### The one stop (70_reset_and_hazards.md R187) -/

theorem exec_copy_of_no_packet {s : State} (hp : s.packets = []) : exec .copy s = .fault .copyWithoutPacket := by
  rw [exec, execCopy, hp]

/-- Every test of a command ends in a next state, the flag set or the command done (60_exceptions.md R160). -/
theorem exec_answers {i : Instr} {s : State} (h : ¬(i = .copy ∧ s.packets = [])) : ∃ t, exec i s = .next t := by
  cases i with
  | kreset | hsize | psize | csize | sbclr | obclr => exact ⟨_, rfl⟩
  | align0 size shift | posoff size shift =>
    simp only [exec, execAlign0, execPosoff]
    split_ifs <;> exact ⟨_, rfl⟩
  | merge outoff srcoff n =>
    simp only [exec, execMerge]
    split_ifs <;> exact ⟨_, rfl⟩
  | span len off =>
    simp only [exec, execSpan]
    split_ifs <;> exact ⟨_, rfl⟩
  | copy =>
    cases hp : s.packets with
    | nil => exact absurd ⟨rfl, hp⟩ h
    | cons packet rest => exact ⟨_, exec_copy hp⟩

/-- Settles O41: without a packet COPY faults, and everything else answers a next state, which is no fault. -/
theorem onlyCopyWithoutPacketStops : Obligations.OnlyCopyWithoutPacketStops := by
  intro i s
  by_cases h : i = .copy ∧ s.packets = []
  · obtain ⟨rfl, hp⟩ := h
    simp [exec_copy_of_no_packet hp, hp]
  · obtain ⟨t, ht⟩ := exec_answers h
    simp [ht, h]

/-- A next state, or the stop of a COPY with no packet presented: no refusal and no other fault. -/
def NextOrNoPacket (o : Host.Outcome State Fault Refusal) : Prop :=
  (∃ t, o = .next t) ∨ o = .fault .copyWithoutPacket

theorem nextOrNoPacket_next (t : State) : NextOrNoPacket (.next t) := .inl ⟨t, rfl⟩

theorem exec_nextOrNoPacket (i : Instr) (s : State) : NextOrNoPacket (exec i s) := by
  by_cases h : i = .copy ∧ s.packets = []
  · obtain ⟨rfl, hp⟩ := h
    exact .inr (exec_copy_of_no_packet hp)
  · exact .inl (exec_answers h)

theorem NextOrNoPacket.respondTo {o : Host.Outcome State Fault Refusal} (h : NextOrNoPacket o) (r : Response) :
    NextOrNoPacket (respondTo r o) := by
  rcases h with ⟨t, rfl⟩ | rfl
  · exact nextOrNoPacket_next _
  · exact .inr rfl

theorem runCommand_nextOrNoPacket (w : Word) (s : State) : NextOrNoPacket (runCommand w s) := by
  unfold runCommand
  split
  · exact exec_nextOrNoPacket _ _
  · exact nextOrNoPacket_next _

theorem busWrite_nextOrNoPacket (off : Nat) (width : Width) (v : Word) (s : State) :
    NextOrNoPacket (busWrite off width v s) := by
  unfold busWrite
  split
  · exact (runCommand_nextOrNoPacket v _).respondTo _
  · split <;> exact nextOrNoPacket_next _
  · exact nextOrNoPacket_next _

theorem runInput_nextOrNoPacket (e : Input) (s : State) : NextOrNoPacket (runInput e s) := by
  cases e with
  | hostRead addr width =>
    simp only [runInput]
    split <;> exact nextOrNoPacket_next _
  | hostWrite addr width v =>
    simp only [runInput]
    split
    · exact busWrite_nextOrNoPacket _ _ _ _
    · exact nextOrNoPacket_next _
  | xformRead | xformAdvance | present | sinkRoom | reset => exact nextOrNoPacket_next _

/-- The whole machine stops only at a COPY with no packet (70_reset_and_hazards.md R187). -/
theorem step_nextOrNoPacket (s : State) : NextOrNoPacket (step s) := by
  unfold step agentStep
  split
  · exact (exec_nextOrNoPacket .copy s).respondTo _
  · split
    · exact runInput_nextOrNoPacket _ _
    · exact nextOrNoPacket_next _

/-! ### The reset event and the state after reset (70_reset_and_hazards.md R180) -/

/-- Settles O53: the step is the reset event, which writes the cleared fields and leaves the agents'. -/
theorem resetEventAbandonsTheHold : Obligations.ResetEventAbandonsTheHold := by
  intro s rest hm
  exact ⟨hardwareReset { s with inputs := rest }, step_of_moveNext hm,
    rfl, rfl, rfl, rfl, rfl, rfl, rfl, rfl, rfl, rfl, rfl, rfl⟩

/-- Settles O55: after reset no COPY is held. -/
theorem holdInvariantHoldsAtReset : Obligations.HoldInvariantHoldsAtReset :=
  holdInvariant_of_free (s := State.reset) rfl

/-! ### What is left of a run, and that each step makes it less -/

/-- A bound on the steps a run can still take: two for each waiting move, which can be a COPY that comes to be held,
and one for a COPY held now. -/
def stepsLeft (s : State) : Nat := 2 * s.inputs.length + s.held.toNat

theorem stepsLeft_le (s : State) : stepsLeft s ≤ 2 * s.inputs.length + 1 :=
  Nat.add_le_add_left s.held.toNat_le _

theorem stepsLeft_pos {s : State} (h : ¬ RunOver s) : 0 < stepsLeft s := by
  by_contra hz
  have hfree : s.held.toNat = 0 ∧ s.inputs.length = 0 := by
    unfold stepsLeft at hz
    omega
  obtain ⟨hheld, hinputs⟩ := hfree
  exact h ⟨by simpa using hheld, by simp [List.length_eq_zero_iff.mp hinputs]⟩

theorem CommandEffect.keeps_inputs {i : Instr} {s u : State} (hu : CommandEffect s i u) : u.inputs = s.inputs := by
  cases hu with
  | merge => exact mergeAt_inputs _ _ _ _
  | copy => exact copyInto_inputs _ _ _ _
  | unchanged | fault | kreset | result | source | obclr => rfl

/-- No move adds or takes away another one. -/
theorem MoveEffect.keeps_inputs {e : Input} {s t : State} (ht : MoveEffect s e t) : t.inputs = s.inputs := by
  cases ht with
  | command w i u _ hu => exact (respond_inputs _ _).trans hu.keeps_inputs
  | illegal => exact respond_inputs _ _
  | xformAdvance => exact xformAdvance_inputs _
  | quiet | writeStatus | writeRing | writeHeader | writeSource | writeOutput | xformRead | present | sinkRoom
  | reset => rfl

/-- The move taken leaves all the others. -/
theorem nextInput_length {held : Bool} {l rest : List Input} {e : Input} (h : nextInput held l = some (e, rest)) :
    l.length = rest.length + 1 := by
  obtain ⟨⟨before, after, rfl, rfl, -⟩, -⟩ := nextInput_spec h
  simp only [List.length_append, List.length_cons]
  omega

/-- No move can be taken only where none is left, or a COPY is held and all are HOST's (43_framer.md R155). -/
theorem nextInput_eq_none {held : Bool} {l : List Input} (h : nextInput held l = none) :
    ∀ e ∈ l, held = true ∧ fromHost e = true := by
  induction l with
  | nil => simp
  | cons a l ih =>
    rw [nextInput] at h
    split at h
    next hwaits =>
      have hrest : nextInput held l = none := by
        cases hn : nextInput held l with
        | none => rfl
        | some next => simp [hn] at h
      exact List.forall_mem_cons.mpr ⟨by simpa using hwaits, ih hrest⟩
    next => cases h

/-- A granted COPY is over, committed or faulted (43_framer.md R150). -/
theorem copyInto_held_of_granted {S : Nat} {s : State} (hgrant : sinkGrants s.sink S = true) (packet : Packet)
    (rest : List Packet) : (copyInto S packet rest s).held = false := by
  rcases copyInto_cases S packet rest s with ⟨-, e⟩ | ⟨-, e⟩ | ⟨-, -, e⟩ | ⟨-, hno, -⟩
  · rw [e]; rfl
  · rw [e]; rfl
  · rw [e]; rfl
  · exact absurd hgrant (by simp [hno])

theorem stepsLeft_completion {s t : State} (hg : (s.held && sinkGrants s.sink (packetSize s.codec s.hs)) = true)
    (h : step s = .next t) : stepsLeft t < stepsLeft s := by
  obtain ⟨hheld, hgrant⟩ := Bool.and_eq_true_iff.mp hg
  rw [step, agentStep, if_pos hg] at h
  obtain ⟨u, hu, rfl⟩ := respondTo_next h
  obtain ⟨packet, rest, -, rfl⟩ := execCopy_next hu
  simp [stepsLeft, hheld, copyInto_held_of_granted hgrant]

theorem stepsLeft_move {s t : State} {e : Input} {rest : List Input} (hm : MoveNext s e rest)
    (h : step s = .next t) : stepsLeft t < stepsLeft s := by
  rw [step_of_moveNext hm] at h
  have hinputs : t.inputs = rest := (runInput_effect h).keeps_inputs
  have hlength := nextInput_length hm.2
  have hheld := t.held.toNat_le
  rw [stepsLeft, stepsLeft, hinputs]
  omega

/-! ### A run with a fair SINK (70_reset_and_hazards.md R193, R195, R197) -/

/-- Fairness speaks of the whole run, so of what is left of it after a step. -/
theorem sinkFair_of_step {s t : State} (hfair : SinkFair s) (h : step s = .next t) : SinkFair t :=
  fun n u hu => hfair (n + 1) u ((run_succ n h).trans hu)

/-- Where no held COPY is granted and no move can be taken, the run is over: the grant or the reset a held COPY still
waits for would be a move to take. -/
theorem runOver_of_no_move {s : State} (hfair : SinkFair s)
    (hg : (s.held && sinkGrants s.sink (packetSize s.codec s.hs)) = false)
    (hn : nextInput s.held s.inputs = none) : RunOver s := by
  have hwaiting := nextInput_eq_none hn
  cases hheld : s.held with
  | false => exact ⟨hheld, fun e he => absurd (hwaiting e he).1 (by simp [hheld])⟩
  | true =>
    rcases hfair 0 s rfl hheld with hgrant | ⟨e, he, rfl | ⟨m, rfl, -⟩⟩
    · simp [hheld, hgrant] at hg
    · exact absurd (hwaiting _ he).2 (by simp [fromHost])
    · exact absurd (hwaiting _ he).2 (by simp [fromHost])

/-- Under a fair SINK a run that is not over goes on: its step completes a COPY or takes a move. -/
theorem stepsLeft_step {s t : State} (hfair : SinkFair s) (hrun : ¬ RunOver s) (h : step s = .next t) :
    stepsLeft t < stepsLeft s := by
  cases hg : s.held && sinkGrants s.sink (packetSize s.codec s.hs) with
  | true => exact stepsLeft_completion hg h
  | false =>
    rcases hn : nextInput s.held s.inputs with _ | ⟨e, rest⟩
    · exact absurd (runOver_of_no_move hfair hg hn) hrun
    · exact stepsLeft_move ⟨hg, hn⟩ h

/-- After `n` steps the run is over, or it has come to a COPY with no packet (70_reset_and_hazards.md R195, R187). -/
def RunEndsIn (n : Nat) (s : State) : Prop :=
  (∃ t, Sys2Proof.core.run n s = .next t ∧ RunOver t) ∨ Sys2Proof.core.run n s = .fault .copyWithoutPacket

theorem RunEndsIn.of_step {n : Nat} {s t : State} (h : step s = .next t) (ht : RunEndsIn n t) :
    RunEndsIn (n + 1) s := by
  rwa [RunEndsIn, run_succ n h]

theorem runEndsIn_one_of_fault {s : State} (h : step s = .fault .copyWithoutPacket) : RunEndsIn 1 s := by
  have hcore : Sys2Proof.core.step s = .fault .copyWithoutPacket := h
  exact .inr ((Host.Core.run.eq_2 Sys2Proof.core s 0).trans (by rw [hcore]))

theorem exists_runEndsIn (s : State) (hfair : SinkFair s) : ∃ n ≤ stepsLeft s, RunEndsIn n s := by
  by_cases hrun : RunOver s
  · exact ⟨0, Nat.zero_le _, .inl ⟨s, rfl, hrun⟩⟩
  · rcases step_nextOrNoPacket s with ⟨t, ht⟩ | hfault
    · have hless : stepsLeft t < stepsLeft s := stepsLeft_step hfair hrun ht
      obtain ⟨n, hn, hend⟩ := exists_runEndsIn t (sinkFair_of_step hfair ht)
      exact ⟨n + 1, by omega, hend.of_step ht⟩
    · exact ⟨1, stepsLeft_pos hrun, runEndsIn_one_of_fault hfault⟩
termination_by stepsLeft s

/-- Settles O60: by induction on the steps left, which every step of a run that is not over makes fewer. -/
theorem runWithAFairSinkEnds : Obligations.RunWithAFairSinkEnds := by
  intro s hfair
  obtain ⟨n, hn, hend⟩ := exists_runEndsIn s hfair
  exact ⟨n, hn.trans (stepsLeft_le s), hend⟩

end Sys2Proof.Proofs

/-! ## The header codec's contract (41_header.md R111) -/

namespace Sys2Proof.Proofs

open Sys2Proof.Machine Sys2Proof.Safety Sys2Proof.Laws

/-- Settles O11: `hsz` picks between two constants by the first header byte alone, and every `psz` is a 16-bit word. -/
theorem everyCodecMeetsTheContract : Obligations.EveryCodecMeetsTheContract :=
  fun c => ⟨headerSize_cases c, fun _ _ hfirst => headerSize_congr c hfirst, packetSize_lt c⟩

end Sys2Proof.Proofs
